-- ==== Sys2Proof/Word.lean ====
section
/-! DEFINITION. The word types of CREN-CORE (00_scope.md R8, R9; 30_encoding.md R80). -/

namespace Sys2Proof

/-- A limb, the source's u64 (R8). -/
abbrev U64 := BitVec 64

/-- The value type Uint128: hi is bits 127..64, lo is bits 63..0 (R9). -/
abbrev U128 := BitVec 128

/-- One byte of the text memory, the spec's u8 (R8, R31). -/
abbrev Byte := BitVec 8

/-- A command word (R80). -/
abbrev Cmd := BitVec 32

end Sys2Proof
end

