-- ==== Sys2Proof/Config.lean ====
section
/-! DEFINITION. What an implementation of CREN-CORE fixes (00_scope.md R7), and the model's one free value. -/

namespace Sys2Proof

/-- REG_COUNT (R7, R21). -/
abbrev regCount : Nat := 16

/-- The open parameter TEXT_SIZE (R7, D8): a power of two from 16 to 4096, held as TEXT_LOG2 - 4, so that no other
size can be written down. -/
structure Params where
  sizeSel : Fin 9
  deriving DecidableEq, Repr

/-- TEXT_LOG2, the field PARAM[15:8], in 4..12 (R28). -/
def Params.textLog2 (p : Params) : Nat := 4 + p.sizeSel.val

/-- TEXT_SIZE in bytes (R7, R31). -/
def Params.textSize (p : Params) : Nat := 2 ^ p.textLog2

/-- The reference value TEXT_SIZE = 4096 (R7, D8; log 3). -/
def Params.reference : Params := ⟨8⟩

/-- FREE VALUE (log 6): what the n-th host read of a register limb or of text memory during BUSY returns
(20_memory.md R65, item U3: any value, each read draws independently). It has no body: nothing can be proved of it. -/
opaque Config.freeRead : Nat → U64

end Sys2Proof
end

