-- ==== Sys2Proof/Syntax.lean ====
section
/-! DEFINITION. What the host can hand to the block: the 34 commands of spec/opcode_table.json (30_encoding.md R86), and
accesses to the host window (20_memory.md R51, R52). -/

namespace Sys2Proof

/-- A register number R0..R15 (R21, R83). -/
abbrev Reg := Fin regCount

/-- The commands, one constructor per row of the opcode table, operands in the order of the assembly syntax (R91).
The register named `a` or `rs` is RS1, `b` is RS2. -/
inductive Instr where
  -- construction, 40_construct.md
  | create (rd rhi rlo : Reg)
  | fromscalar (rd rs : Reg)
  | high (rd rs : Reg)
  | low (rd rs : Reg)
  | czero (rd : Reg)
  | cmax (rd : Reg)
  -- shifts and logic, 41_bitwise.md
  | shl (rd a b : Reg)
  | shr (rd a b : Reg)
  | orR (rd a b : Reg)
  | xorR (rd a b : Reg)
  | andR (rd a b : Reg)
  | orS (rd a b : Reg)
  | xorS (rd a b : Reg)
  | andS (rd a b : Reg)
  -- comparison, 42_compare.md
  | cmpEq (rd a b : Reg)
  | cmpLt (rd a b : Reg)
  | cmpLe (rd a b : Reg)
  | cmpGt (rd a b : Reg)
  | cmpGe (rd a b : Reg)
  -- addition and subtraction, 43_addsub.md
  | add (rd a b : Reg)
  | sub (rd a b : Reg)
  | addS (rd a b : Reg)
  | subS (rd a b : Reg)
  -- multiplication, 44_multiply.md
  | mul64 (rd a b : Reg)
  | mul (rd a b : Reg)
  | mulS (rd a b : Reg)
  -- division, 45_divide.md
  | divrem (rq rr a b : Reg)
  | div (rd a b : Reg)
  | mod (rd a b : Reg)
  | divS (rd a b : Reg)
  | modS (rd a b : Reg)
  -- increment and decrement, 46_incdec.md
  | inc (rd rs : Reg)
  | dec (rd rs : Reg)
  -- parsing, 47_parse.md
  | parse (rd raddr rlen : Reg)
  deriving DecidableEq, Repr

/-- The width of a host access in bits. Only 8, 32 and 64 are ever legal (R51, R52); the others exist so that an access
of a wrong width can be written down. -/
inductive Width where
  | w8
  | w16
  | w32
  | w64
  | w128
  deriving DecidableEq, Repr

/-- A host access by its byte offset in the host window (R51). A write's data are the low bits of `data`, as many as the
width says (log 15). -/
inductive HostAccess where
  | read (off : Nat) (width : Width)
  | write (off : Nat) (width : Width) (data : U64)
  deriving DecidableEq, Repr

end Sys2Proof
end

