-- ==== Sys2Proof/WellFormed.lean ====
section
/-! DEFINITION. Which of the terms the host hands over are well formed: command words (30_encoding.md R87, R88), host
accesses (20_memory.md R51, R52), and the register numbers of a command (R81). The decoder and the host port are written
without these checks; statements say that they agree. -/

namespace Sys2Proof

/-- A row of spec/opcode_table.json: the value of the fixed bits and the mask that selects them (R82, R90). -/
structure OpcodeRow where
  mnemonic : String
  pattern : Cmd
  mask : Cmd
  deriving DecidableEq, Repr

/-- Rows of the opcode table, CREATE to CMAX. -/
def opcodeRowsConstruct : List OpcodeRow := [
  ⟨"CREATE", 0x00000001, 0xfff000ff⟩,
  ⟨"FROMSCALAR", 0x00000002, 0xffff00ff⟩,
  ⟨"HIGH", 0x00000003, 0xffff00ff⟩,
  ⟨"LOW", 0x00000004, 0xffff00ff⟩,
  ⟨"CZERO", 0x00000005, 0xfffff0ff⟩,
  ⟨"CMAX", 0x00000006, 0xfffff0ff⟩]

/-- Rows of the opcode table, SHL to AND_S. -/
def opcodeRowsBitwise : List OpcodeRow := [
  ⟨"SHL", 0x00000010, 0xfff000ff⟩,
  ⟨"SHR", 0x00000011, 0xfff000ff⟩,
  ⟨"OR", 0x00000012, 0xfff000ff⟩,
  ⟨"XOR", 0x00000013, 0xfff000ff⟩,
  ⟨"AND", 0x00000014, 0xfff000ff⟩,
  ⟨"OR_S", 0x00000015, 0xfff000ff⟩,
  ⟨"XOR_S", 0x00000016, 0xfff000ff⟩,
  ⟨"AND_S", 0x00000017, 0xfff000ff⟩]

/-- Rows of the opcode table, EQ to GE. -/
def opcodeRowsCompare : List OpcodeRow := [
  ⟨"EQ", 0x00000020, 0xfff000ff⟩,
  ⟨"LT", 0x00000021, 0xfff000ff⟩,
  ⟨"LE", 0x00000022, 0xfff000ff⟩,
  ⟨"GT", 0x00000023, 0xfff000ff⟩,
  ⟨"GE", 0x00000024, 0xfff000ff⟩]

/-- Rows of the opcode table, ADD to MUL_S. -/
def opcodeRowsArith : List OpcodeRow := [
  ⟨"ADD", 0x00000030, 0xfff000ff⟩,
  ⟨"SUB", 0x00000031, 0xfff000ff⟩,
  ⟨"ADD_S", 0x00000032, 0xfff000ff⟩,
  ⟨"SUB_S", 0x00000033, 0xfff000ff⟩,
  ⟨"MUL64", 0x00000040, 0xfff000ff⟩,
  ⟨"MUL", 0x00000041, 0xfff000ff⟩,
  ⟨"MUL_S", 0x00000042, 0xfff000ff⟩]

/-- Rows of the opcode table, DIVREM to MOD_S. -/
def opcodeRowsDivide : List OpcodeRow := [
  ⟨"DIVREM", 0x00000050, 0xff0000ff⟩,
  ⟨"DIV", 0x00000051, 0xfff000ff⟩,
  ⟨"MOD", 0x00000052, 0xfff000ff⟩,
  ⟨"DIV_S", 0x00000053, 0xfff000ff⟩,
  ⟨"MOD_S", 0x00000054, 0xfff000ff⟩]

/-- Rows of the opcode table, INC to PARSE. -/
def opcodeRowsRest : List OpcodeRow := [
  ⟨"INC", 0x00000060, 0xffff00ff⟩,
  ⟨"DEC", 0x00000061, 0xffff00ff⟩,
  ⟨"PARSE", 0x00000070, 0xfff000ff⟩]

/-- The opcode table (R86), transcribed from spec/opcode_table.json. -/
def opcodeTable : List OpcodeRow :=
  opcodeRowsConstruct ++ opcodeRowsBitwise ++ opcodeRowsCompare ++ opcodeRowsArith ++ opcodeRowsDivide ++ opcodeRowsRest

/-- Check 1 of a command word: its OP is one of the 34 of the table (R87). -/
def Cmd.listedOpcode (w : Cmd) : Bool :=
  opcodeTable.any fun row => w.extractLsb' 0 8 == row.pattern.extractLsb' 0 8

/-- Check 2 of a command word: every field its format does not use is 0 (R88). -/
def Cmd.unusedFieldsZero (w : Cmd) : Bool :=
  opcodeTable.all fun row => w.extractLsb' 0 8 != row.pattern.extractLsb' 0 8 || w &&& row.mask == row.pattern

/-- A command word that is not illegal (R87, R88, R89). -/
def Cmd.wellFormed (w : Cmd) : Bool := w.listedOpcode && w.unusedFieldsZero

/-- The registers a command names. -/
def Instr.registers : Instr → List Reg
  | .czero d | .cmax d => [d]
  | .fromscalar d a | .high d a | .low d a | .inc d a | .dec d a => [d, a]
  | .create d a b | .shl d a b | .shr d a b | .orR d a b | .xorR d a b | .andR d a b | .orS d a b | .xorS d a b
  | .andS d a b | .cmpEq d a b | .cmpLt d a b | .cmpLe d a b | .cmpGt d a b | .cmpGe d a b | .add d a b | .sub d a b
  | .addS d a b | .subS d a b | .mul64 d a b | .mul d a b | .mulS d a b | .div d a b | .mod d a b | .divS d a b
  | .modS d a b | .parse d a b => [d, a, b]
  | .divrem q r a b => [q, r, a, b]

/-- Every register number of a command is below REG_COUNT (R81). The type `Reg` already carries the bound, so no
ill-formed command can be written down. -/
def Instr.wellFormed (i : Instr) : Bool := i.registers.all fun r => decide (r.val < regCount)

/-- The width of an access in bytes. -/
def Width.bytes : Width → Nat
  | .w8 => 1
  | .w16 => 2
  | .w32 => 4
  | .w64 => 8
  | .w128 => 16

/-- The offset of an access. -/
def HostAccess.off : HostAccess → Nat
  | .read o _ => o
  | .write o _ _ => o

/-- The width of an access. -/
def HostAccess.width : HostAccess → Width
  | .read _ w => w
  | .write _ w _ => w

/-- Offsets of the five control registers, 0x000 to 0x010 (R51). -/
def inControl (o : Nat) : Bool := decide (o < 0x14)

/-- Offsets of the register window, 0x100 to 0x1FF (R51). -/
def inRegisters (o : Nat) : Bool := decide (0x100 ≤ o) && decide (o < 0x200)

/-- Offsets of the text window (R51). -/
def inText (p : Params) (o : Nat) : Bool := decide (0x1000 ≤ o) && decide (o < 0x1000 + p.textSize)

/-- Check 1 of a host access: its offset is mapped (R51). -/
def HostAccess.mapped (p : Params) (a : HostAccess) : Bool := inControl a.off || inRegisters a.off || inText p a.off

/-- Check 2 of a host access: its width is one the region takes (R51, R52). -/
def HostAccess.widthAllowed (p : Params) (a : HostAccess) : Bool :=
  (!inControl a.off || a.width == .w32)
    && (!inRegisters a.off || a.width == .w32 || a.width == .w64)
    && (!inText p a.off || a.width == .w8 || a.width == .w32 || a.width == .w64)

/-- Check 3 of a host access: natural alignment (R52). -/
def HostAccess.aligned (a : HostAccess) : Bool := a.off % a.width.bytes == 0

/-- A legal host access (R52). -/
def HostAccess.wellFormed (p : Params) (a : HostAccess) : Bool := a.mapped p && a.widthAllowed p && a.aligned

end Sys2Proof
end

