-- ==== Sys2Proof/Decode.lean ====
section
/-! DEFINITION. Decoding a command word and encoding a command (30_encoding.md R80 to R90). -/

namespace Sys2Proof

/-- Why a word is illegal: each is `raise ILLEGAL_CMD(w)` (R87, R88). -/
inductive DecodeError where
  /-- OP is not in the opcode map (R87). -/
  | unlistedOpcode
  /-- A field the format requires to be 0 is not (R88). -/
  | nonzeroUnusedField
  deriving DecidableEq, Repr

/-- The four formats (R82). -/
inductive Format where
  | rz
  | ru
  | rb
  | rd2
  deriving DecidableEq, Repr

/-- The mask of the fixed bits of a format (R82). -/
def formatMask : Format → Cmd
  | .rz => 0xFFFFF0FF
  | .ru => 0xFFFF00FF
  | .rb => 0xFFF000FF
  | .rd2 => 0xFF0000FF

/-- The fields of a command word (R81). -/
def fieldOp (w : Cmd) : BitVec 8 := w.extractLsb' 0 8
def fieldRd (w : Cmd) : Reg := (w.extractLsb' 8 4).toFin
def fieldRs1 (w : Cmd) : Reg := (w.extractLsb' 12 4).toFin
def fieldRs2 (w : Cmd) : Reg := (w.extractLsb' 16 4).toFin
def fieldRd2 (w : Cmd) : Reg := (w.extractLsb' 20 4).toFin

/-- The opcode map (R86): the command that OP names, with the fields its format uses. -/
def commandOf (op : Nat) (rd rs1 rs2 rd2 : Reg) : Option Instr :=
  match op with
  | 0x01 => some (.create rd rs1 rs2)
  | 0x02 => some (.fromscalar rd rs1)
  | 0x03 => some (.high rd rs1)
  | 0x04 => some (.low rd rs1)
  | 0x05 => some (.czero rd)
  | 0x06 => some (.cmax rd)
  | 0x10 => some (.shl rd rs1 rs2)
  | 0x11 => some (.shr rd rs1 rs2)
  | 0x12 => some (.orR rd rs1 rs2)
  | 0x13 => some (.xorR rd rs1 rs2)
  | 0x14 => some (.andR rd rs1 rs2)
  | 0x15 => some (.orS rd rs1 rs2)
  | 0x16 => some (.xorS rd rs1 rs2)
  | 0x17 => some (.andS rd rs1 rs2)
  | 0x20 => some (.cmpEq rd rs1 rs2)
  | 0x21 => some (.cmpLt rd rs1 rs2)
  | 0x22 => some (.cmpLe rd rs1 rs2)
  | 0x23 => some (.cmpGt rd rs1 rs2)
  | 0x24 => some (.cmpGe rd rs1 rs2)
  | 0x30 => some (.add rd rs1 rs2)
  | 0x31 => some (.sub rd rs1 rs2)
  | 0x32 => some (.addS rd rs1 rs2)
  | 0x33 => some (.subS rd rs1 rs2)
  | 0x40 => some (.mul64 rd rs1 rs2)
  | 0x41 => some (.mul rd rs1 rs2)
  | 0x42 => some (.mulS rd rs1 rs2)
  | 0x50 => some (.divrem rd rd2 rs1 rs2)
  | 0x51 => some (.div rd rs1 rs2)
  | 0x52 => some (.mod rd rs1 rs2)
  | 0x53 => some (.divS rd rs1 rs2)
  | 0x54 => some (.modS rd rs1 rs2)
  | 0x60 => some (.inc rd rs1)
  | 0x61 => some (.dec rd rs1)
  | 0x70 => some (.parse rd rs1 rs2)
  | _ => none

/-- The opcode of a command (R86). -/
def opcodeOf : Instr → BitVec 8
  | .create _ _ _ => 0x01
  | .fromscalar _ _ => 0x02
  | .high _ _ => 0x03
  | .low _ _ => 0x04
  | .czero _ => 0x05
  | .cmax _ => 0x06
  | .shl _ _ _ => 0x10
  | .shr _ _ _ => 0x11
  | .orR _ _ _ => 0x12
  | .xorR _ _ _ => 0x13
  | .andR _ _ _ => 0x14
  | .orS _ _ _ => 0x15
  | .xorS _ _ _ => 0x16
  | .andS _ _ _ => 0x17
  | .cmpEq _ _ _ => 0x20
  | .cmpLt _ _ _ => 0x21
  | .cmpLe _ _ _ => 0x22
  | .cmpGt _ _ _ => 0x23
  | .cmpGe _ _ _ => 0x24
  | .add _ _ _ => 0x30
  | .sub _ _ _ => 0x31
  | .addS _ _ _ => 0x32
  | .subS _ _ _ => 0x33
  | .mul64 _ _ _ => 0x40
  | .mul _ _ _ => 0x41
  | .mulS _ _ _ => 0x42
  | .divrem _ _ _ _ => 0x50
  | .div _ _ _ => 0x51
  | .mod _ _ _ => 0x52
  | .divS _ _ _ => 0x53
  | .modS _ _ _ => 0x54
  | .inc _ _ => 0x60
  | .dec _ _ => 0x61
  | .parse _ _ _ => 0x70

/-- The format of a command (R82, R86). -/
def formatOf : Instr → Format
  | .czero _ | .cmax _ => .rz
  | .fromscalar _ _ | .high _ _ | .low _ _ | .inc _ _ | .dec _ _ => .ru
  | .create _ _ _ | .shl _ _ _ | .shr _ _ _ | .orR _ _ _ | .xorR _ _ _ | .andR _ _ _ | .orS _ _ _ | .xorS _ _ _
  | .andS _ _ _ | .cmpEq _ _ _ | .cmpLt _ _ _ | .cmpLe _ _ _ | .cmpGt _ _ _ | .cmpGe _ _ _ | .add _ _ _
  | .sub _ _ _ | .addS _ _ _ | .subS _ _ _ | .mul64 _ _ _ | .mul _ _ _ | .mulS _ _ _ | .div _ _ _ | .mod _ _ _
  | .divS _ _ _ | .modS _ _ _ | .parse _ _ _ => .rb
  | .divrem _ _ _ _ => .rd2

/-- Decoding, total on every 32-bit word (R90). -/
def decode (w : Cmd) : Except DecodeError Instr :=
  match commandOf (fieldOp w).toNat (fieldRd w) (fieldRs1 w) (fieldRs2 w) (fieldRd2 w) with
  | none => .error .unlistedOpcode
  | some i =>
    if w &&& formatMask (formatOf i) = (opcodeOf i).setWidth 32 then .ok i else .error .nonzeroUnusedField

/-- The four bits of a register field (R81, R83). -/
def regBits (r : Reg) : BitVec 4 := BitVec.ofFin r

/-- A command word from its fields, RES = 0 (R81). -/
def assembleWord (op : BitVec 8) (rd rs1 rs2 rd2 : Reg) : Cmd :=
  op.setWidth 32 ||| (regBits rd).setWidth 32 <<< 8 ||| (regBits rs1).setWidth 32 <<< 12
    ||| (regBits rs2).setWidth 32 <<< 16 ||| (regBits rd2).setWidth 32 <<< 20

/-- The word of a command: its opcode, its registers, and 0 in every field its format does not use (R82, R86). -/
def encode (i : Instr) : Cmd :=
  match i with
  | .czero d | .cmax d => assembleWord (opcodeOf i) d 0 0 0
  | .fromscalar d a | .high d a | .low d a | .inc d a | .dec d a => assembleWord (opcodeOf i) d a 0 0
  | .create d a b | .shl d a b | .shr d a b | .orR d a b | .xorR d a b | .andR d a b | .orS d a b | .xorS d a b
  | .andS d a b | .cmpEq d a b | .cmpLt d a b | .cmpLe d a b | .cmpGt d a b | .cmpGe d a b | .add d a b
  | .sub d a b | .addS d a b | .subS d a b | .mul64 d a b | .mul d a b | .mulS d a b | .div d a b | .mod d a b
  | .divS d a b | .modS d a b | .parse d a b => assembleWord (opcodeOf i) d a b 0
  | .divrem d e a b => assembleWord (opcodeOf i) d a b e

/-- The instruction the decoder reads from a table word of `nbits` bits: every bit above `nbits` is 0. -/
def decodeTableWord (nbits w : Nat) : Option Instr :=
  match decode (BitVec.ofNat 32 (w % 2 ^ nbits)) with
  | .ok i => some i
  | .error _ => none

end Sys2Proof
end

