-- ==== Sys2Proof/Machine/State.lean ====
section
/-! DEFINITION. The state of CREN-CORE (10_state.md), the reasons a step can stop, and the state after reset (R36). -/

namespace Sys2Proof.Machine

/-- STATUS.CAUSE (10_state.md R30). Codes 4 to 15 are never produced, so they are no constructors. -/
inductive Cause where
  | none
  | illegalCmd
  | divByZero
  | textRange
  deriving DecidableEq, Repr

/-- The text memory: (address, byte) pairs, addresses strictly rising (`Memory.wf`). A byte that nothing has written
is not listed and holds no value (log 2). -/
abbrev Memory := List Host.Cell

/-- What the host port answers to an access (20_memory.md R52, R57). -/
inductive Response where
  /-- A write completed (also one that was ignored or dropped, log 14). -/
  | done
  /-- A read completed: the data, zero-extended to 64 bits. -/
  | data (value : U64)
  /-- An access that is not legal (R52): no data, no state changed. -/
  | busError
  deriving DecidableEq, Repr

/-- What happens at the block next (log 4). -/
inductive Event where
  /-- The core's move: it completes the command in PEND, or idles (70_reset_and_hazards.md R345). -/
  | core
  /-- One host access (20_memory.md R51). -/
  | host (access : HostAccess)
  /-- Reset is asserted and released (70_reset_and_hazards.md R340). -/
  | reset
  deriving DecidableEq, Repr

/-- The state of the block. The last three fields are the model's own (INVENTORY.md, State). -/
structure State where
  /-- R0 to R15 (R21). -/
  regs : Vector U128 16
  /-- TEXT (R31). -/
  text : Memory
  /-- PEND (R34). STATUS.BUSY is 1 exactly when it is not empty. -/
  pend : Option Cmd
  /-- STATUS.FAULT (R25). -/
  fault : Bool
  /-- STATUS.OVR (R25). -/
  ovr : Bool
  /-- STATUS.CAUSE (R25, R30). -/
  cause : Cause
  /-- FCMD (R29). -/
  fcmd : Cmd
  /-- The configured TEXT_SIZE that PARAM reports (R28, log 3). No step changes it. -/
  params : Params
  /-- The events to come, first one first (log 4). -/
  events : List Event
  /-- The answer to the last host access (log 7). -/
  response : Option Response
  /-- How many free values have been drawn (log 6). -/
  draws : Nat
  deriving DecidableEq, Repr

/-- Why the machine stops with a fault of the MODEL. The block's own faults (60_exceptions.md R310) are no stops: they
are next states. -/
inductive Fault where
  /-- A text byte that was never written since reset was read, by PARSE or by a host read (10_state.md R36,
  93_implementation_defined.md U2, log 2). Safe: the block goes on with some value. -/
  | unwrittenText
  deriving DecidableEq, Repr

/-- Why the model has no meaning for an instruction. -/
inductive Refusal where
  /-- Raised by `exec` for an instruction without a meaning; here by none. Safe. -/
  | notModelled (mnemonic : String)
  deriving DecidableEq, Repr

/-- The outcome of a step of this machine. -/
abbrev Result := Host.Outcome State Fault Refusal

/-- The state after reset of a block with the given TEXT_SIZE (R36): STATUS = 0, FCMD = 0, PEND empty, no text byte
written. The registers, whose reset value the spec leaves unspecified, hold 0 (log 1). -/
def State.resetWith (p : Params) : State :=
  { regs := Vector.replicate 16 0
    text := []
    pend := none
    fault := false
    ovr := false
    cause := .none
    fcmd := 0
    params := p
    events := []
    response := none
    draws := 0 }

/-- The machine right after reset, with the reference TEXT_SIZE 4096 (log 3). -/
def State.reset : State := State.resetWith Params.reference

end Sys2Proof.Machine
end

