-- ==== Sys2Proof/Machine/Ops.lean ====
section
/-! DEFINITION. The named operations over the register file, the text memory and the status, among them taking a fault
(60_exceptions.md R312) and reset (70_reset_and_hazards.md R340). -/

namespace Sys2Proof.Machine

/-! ### The text memory (10_state.md R31, 20_memory.md R54, R55) -/

/-- TEXT[a]; no value when nothing has written it (log 2). -/
def Memory.read : Memory → Nat → Option Byte
  | [], _ => none
  | (k, b) :: m, a => if k = a then some b else Memory.read m a

/-- TEXT[a] <- b (R54), keeping the addresses strictly rising. -/
def Memory.write : Memory → Nat → Byte → Memory
  | [], a, b => [(a, b)]
  | (k, c) :: m, a, b =>
    if a < k then (a, b) :: (k, c) :: m else if a = k then (a, b) :: m else (k, c) :: Memory.write m a b

/-- The canonical form: addresses strictly rising. An unlisted address holds no value, so no entry can equal what it
reads as. -/
def Memory.wf : Memory → Bool
  | [] => true
  | (a, _) :: m => m.all (fun c => decide (a < c.1)) && Memory.wf m

/-- Every listed address exists in a text memory of `n` bytes. -/
def Memory.within (n : Nat) (m : Memory) : Bool := m.all fun c => decide (c.1 < n)

/-- The `n` bytes from address `a` as one little-endian number (R53); no value when one of them was never written. -/
def Memory.readBytes (m : Memory) (a : Nat) : Nat → Option U64
  | 0 => some 0
  | n + 1 =>
    match Memory.readBytes m a n, m.read (a + n) with
    | some low, some b => some (low ||| b.setWidth 64 <<< (8 * n))
    | _, _ => none

/-- The low `n` bytes of `data` to the addresses from `a`, least significant byte first (R53, R54). -/
def Memory.writeBytes (m : Memory) (a : Nat) (data : U64) : Nat → Memory
  | 0 => m
  | n + 1 => (Memory.writeBytes m a data n).write (a + n) (data.extractLsb' (8 * n) 8)

/-! ### The register file (R21) -/

/-- `x[r]` (00_scope.md R10). -/
def State.reg (s : State) (r : Reg) : U128 := s.regs[r.val]

/-- `x[r] <- v` (R10). -/
def State.setReg (s : State) (r : Reg) (v : U128) : State := { s with regs := s.regs.set r.val v }

/-! ### Status and command completion -/

/-- STATUS.BUSY: 1 exactly when PEND is not empty (R34). -/
def State.busy (s : State) : Bool := s.pend.isSome

/-- `PEND <- empty; STATUS.BUSY <- 0`, the end of every command (70_reset_and_hazards.md R345). -/
def State.retire (s : State) : State := { s with pend := none }

/-- A command that writes `v` to RD and completes (R345). -/
def finish (rd : Reg) (v : U128) (s : State) : Result := .next (s.setReg rd v).retire

/-- A command that writes RD and then RD2, and completes (R351). -/
def finishTwo (rd rd2 : Reg) (v v2 : U128) (s : State) : Result := .next ((s.setReg rd v).setReg rd2 v2).retire

/-- Taking a fault, the block's only exception entry (60_exceptions.md R312): FAULT and CAUSE set, FCMD <- the word,
PEND emptied; no register and no text byte is written. There is no return from it but reset (R315). -/
def State.raise (s : State) (c : Cause) (w : Cmd) : State :=
  { s with fault := true, cause := c, fcmd := w, pend := none }

/-- Reset (R340): every piece of state takes its reset value; a command in flight is abandoned. The configuration stays,
as do the model's own schedule and draw counter (log 22). -/
def State.afterReset (s : State) : State :=
  { State.resetWith s.params with events := s.events, draws := s.draws }

end Sys2Proof.Machine
end

