-- ==== Sys2Proof/Machine/Operands.lean ====
section
/-! DEFINITION. The operand forms of the commands (30_encoding.md R83 to R85) and the limbs of a value (00_scope.md R8, R9). -/

namespace Sys2Proof.Machine

/-- `v.hi`, bits 127..64 (R9). -/
def hi (v : U128) : U64 := v.extractLsb' 64 64

/-- `v.lo`, bits 63..0 (R9). -/
def lo (v : U128) : U64 := v.extractLsb' 0 64

/-- `{h, l}` = h * 2^64 + l (R8). -/
def cat (h l : U64) : U128 := h ++ l

/-- `zext_128(u)` (R10): how a u64 result is written (R85). -/
def zext128 (u : U64) : U128 := u.setWidth 128

/-- `zext_128(bool(c))`: how a truth value is written, {0, 1} or {0, 0} (R85). -/
def truth (c : Bool) : U128 := if c then 1 else 0

/-- The constant ZERO (10_state.md R33). -/
def zero128 : U128 := cat 0 0

/-- The constant MAX (R33). -/
def max128 : U128 := cat (BitVec.allOnes 64) (BitVec.allOnes 64)

/-- A u64 operand: the low limb of its register, the high limb ignored (R84). -/
def State.scalar (s : State) (r : Reg) : U64 := lo (s.reg r)

end Sys2Proof.Machine
end

