-- ==== Sys2Proof/Machine/Flags.lean ====
section
/-! DEFINITION. The block has no flags (10_state.md R24). The carries and borrows inside one command, the source's
LimbResult, are computed here (43_addsub.md R170, R171). -/

namespace Sys2Proof.Machine

/-- A carry or borrow bit as a limb. -/
def bit64 (c : Bool) : U64 := if c then 1 else 0

/-- `addc(x, y, c)`: the limb sum with carry in, and the carry out (R170). -/
def addc (x y : U64) (c : Bool) : U64 × Bool :=
  let t := x + y
  let c1 := t.ult x
  let s := t + bit64 c
  let c2 := s.ult t
  (s, c1 || c2)

/-- `subb(x, y, b)`: the limb difference with borrow in, and the borrow out (R171). -/
def subb (x y : U64) (b : Bool) : U64 × Bool :=
  let t := x - y
  let b1 := x.ult t
  let d := t - bit64 b
  let b2 := t.ult d
  (d, b1 || b2)

end Sys2Proof.Machine
end

