-- ==== Sys2Proof/Machine/AddSub.lean ====
section
/-! DEFINITION. Addition and subtraction (43_addsub.md): carries and borrows pass from the low limb to the high limb and
are lost beyond bit 127. -/

namespace Sys2Proof.Machine

/-- The value ADD writes (R172). -/
def add128 (a b : U128) : U128 :=
  let low := addc (lo a) (lo b) false
  cat (addc (hi a) (hi b) low.2).1 low.1

/-- The value SUB writes (R173). -/
def sub128 (a b : U128) : U128 :=
  let low := subb (lo a) (lo b) false
  cat (subb (hi a) (hi b) low.2).1 low.1

/-- The value ADD_S writes (R174): the scalar is folded into the low limb. -/
def addScalar (a : U128) (x : U64) : U128 :=
  let l := lo a + x
  cat (hi a + bit64 (l.ult (lo a))) l

/-- The value SUB_S writes (R175). -/
def subScalar (a : U128) (x : U64) : U128 :=
  let l := lo a - x
  cat (hi a - bit64 ((lo a).ult l)) l

/-- ADD (R172). -/
def execAdd (rd a b : Reg) (s : State) : Result := finish rd (add128 (s.reg a) (s.reg b)) s

/-- SUB (R173). -/
def execSub (rd a b : Reg) (s : State) : Result := finish rd (sub128 (s.reg a) (s.reg b)) s

/-- ADD_S (R174). -/
def execAddS (rd a b : Reg) (s : State) : Result := finish rd (addScalar (s.reg a) (s.scalar b)) s

/-- SUB_S (R175). -/
def execSubS (rd a b : Reg) (s : State) : Result := finish rd (subScalar (s.reg a) (s.scalar b)) s

end Sys2Proof.Machine
end

