-- ==== Sys2Proof/Machine/Bitwise.lean ====
section
/-! DEFINITION. Shifts and bitwise logic (41_bitwise.md). -/

namespace Sys2Proof.Machine

/-! ### Shifts -/

/-- The value SHL writes (R130). -/
def shl128 (a : U128) (n : U64) : U128 := if 128 ≤ n.toNat then zero128 else a <<< n.toNat

/-- The value SHR writes (R131): a logical shift. -/
def shr128 (a : U128) (n : U64) : U128 := if 128 ≤ n.toNat then zero128 else a >>> n.toNat

/-- The limb datapath of SHL for n below 128 (R132): no limb is shifted by 64 or more. -/
def shlLimbs (a : U128) (n : Nat) : U128 :=
  if n = 0 then a
  else if n < 64 then cat (hi a <<< n ||| lo a >>> 1 >>> (63 - n)) (lo a <<< n)
  else cat (lo a <<< (n - 64)) 0

/-- The limb datapath of SHR for n below 128 (R132), the mirror of SHL's (90_conflicts.md C2). -/
def shrLimbs (a : U128) (n : Nat) : U128 :=
  if n = 0 then a
  else if n < 64 then cat (hi a >>> n) (lo a >>> n ||| hi a <<< 1 <<< (63 - n))
  else cat 0 (hi a >>> (n - 64))

/-- SHL (R130). -/
def execShl (rd a b : Reg) (s : State) : Result := finish rd (shl128 (s.reg a) (s.scalar b)) s

/-- SHR (R131). -/
def execShr (rd a b : Reg) (s : State) : Result := finish rd (shr128 (s.reg a) (s.scalar b)) s

/-! ### Two-operand logic, limb by limb -/

/-- The value OR writes (R133). -/
def or128 (a b : U128) : U128 := cat (hi a ||| hi b) (lo a ||| lo b)

/-- The value XOR writes (R134). -/
def xor128 (a b : U128) : U128 := cat (hi a ^^^ hi b) (lo a ^^^ lo b)

/-- The value AND writes (R135). -/
def and128 (a b : U128) : U128 := cat (hi a &&& hi b) (lo a &&& lo b)

/-- OR (R133). -/
def execOr (rd a b : Reg) (s : State) : Result := finish rd (or128 (s.reg a) (s.reg b)) s

/-- XOR (R134). -/
def execXor (rd a b : Reg) (s : State) : Result := finish rd (xor128 (s.reg a) (s.reg b)) s

/-- AND (R135). -/
def execAnd (rd a b : Reg) (s : State) : Result := finish rd (and128 (s.reg a) (s.reg b)) s

/-! ### Scalar logic: the scalar meets the low limb only -/

/-- OR_S (R136). -/
def execOrS (rd a b : Reg) (s : State) : Result :=
  finish rd (cat (hi (s.reg a)) (lo (s.reg a) ||| s.scalar b)) s

/-- XOR_S (R137). -/
def execXorS (rd a b : Reg) (s : State) : Result :=
  finish rd (cat (hi (s.reg a)) (lo (s.reg a) ^^^ s.scalar b)) s

/-- AND_S (R138): the high limb is kept (90_conflicts.md C1). -/
def execAndS (rd a b : Reg) (s : State) : Result :=
  finish rd (cat (hi (s.reg a)) (lo (s.reg a) &&& s.scalar b)) s

end Sys2Proof.Machine
end

