-- ==== Sys2Proof/Machine/Compare.lean ====
section
/-! DEFINITION. Comparison (42_compare.md). -/

namespace Sys2Proof.Machine

/-- Limb-wise equality (R150). -/
def eq128 (a b : U128) : Bool := hi a == hi b && lo a == lo b

/-- The limb-wise unsigned order (R151). -/
def lt128 (a b : U128) : Bool := (hi a).ult (hi b) || (hi a == hi b && (lo a).ult (lo b))

/-- EQ (R150). -/
def execEq (rd a b : Reg) (s : State) : Result := finish rd (truth (eq128 (s.reg a) (s.reg b))) s

/-- LT (R151). -/
def execLt (rd a b : Reg) (s : State) : Result := finish rd (truth (lt128 (s.reg a) (s.reg b))) s

/-- LE (R152). -/
def execLe (rd a b : Reg) (s : State) : Result := finish rd (truth (!lt128 (s.reg b) (s.reg a))) s

/-- GT (R153). -/
def execGt (rd a b : Reg) (s : State) : Result := finish rd (truth (lt128 (s.reg b) (s.reg a))) s

/-- GE (R154). -/
def execGe (rd a b : Reg) (s : State) : Result := finish rd (truth (!lt128 (s.reg a) (s.reg b))) s

end Sys2Proof.Machine
end

