-- ==== Sys2Proof/Machine/Construct.lean ====
section
/-! DEFINITION. Construction, accessors and constants (40_construct.md). -/

namespace Sys2Proof.Machine

/-- CREATE (R110). -/
def execCreate (rd rhi rlo : Reg) (s : State) : Result := finish rd (cat (s.scalar rhi) (s.scalar rlo)) s

/-- FROMSCALAR (R111). -/
def execFromscalar (rd rs : Reg) (s : State) : Result := finish rd (cat 0 (s.scalar rs)) s

/-- HIGH (R112). -/
def execHigh (rd rs : Reg) (s : State) : Result := finish rd (cat 0 (hi (s.reg rs))) s

/-- LOW (R113). -/
def execLow (rd rs : Reg) (s : State) : Result := finish rd (cat 0 (lo (s.reg rs))) s

/-- CZERO (R114). -/
def execCzero (rd : Reg) (s : State) : Result := finish rd zero128 s

/-- CMAX (R115). -/
def execCmax (rd : Reg) (s : State) : Result := finish rd max128 s

end Sys2Proof.Machine
end

