-- ==== Sys2Proof/Machine/Divide.lean ====
section
/-! DEFINITION. The division commands (45_divide.md section 5), computed from the divider's observable contract R226
(93_implementation_defined.md U18; log 11). The divider's datapath is in Machine/DivideDatapath.lean. -/

namespace Sys2Proof.Machine

/-- `divrem(x, y)` for y != 0: the floor quotient and the remainder (R226). -/
def divrem (x y : U128) : U128 × U128 := (x / y, x % y)

/-- A division command: DIV_BY_ZERO before any write when the divisor is zero (R221), else `write` of quotient and
remainder. The word FCMD receives is the command's own encoding (log 12). -/
def divideThen (i : Instr) (x y : U128) (write : U128 → U128 → Result) (s : State) : Result :=
  if y = zero128 then .next (s.raise .divByZero (encode i)) else write (divrem x y).1 (divrem x y).2

/-- DIVREM (R230): the quotient to RD, then the remainder to RD2 (R351). -/
def execDivrem (rq rr a b : Reg) (s : State) : Result :=
  divideThen (.divrem rq rr a b) (s.reg a) (s.reg b) (fun q r => finishTwo rq rr q r s) s

/-- DIV (R231). -/
def execDiv (rd a b : Reg) (s : State) : Result :=
  divideThen (.div rd a b) (s.reg a) (s.reg b) (fun q _ => finish rd q s) s

/-- MOD (R232): the remainder (90_conflicts.md C4). -/
def execMod (rd a b : Reg) (s : State) : Result :=
  divideThen (.mod rd a b) (s.reg a) (s.reg b) (fun _ r => finish rd r s) s

/-- DIV_S (R233): the divisor is the low limb, also for the zero test. -/
def execDivS (rd a b : Reg) (s : State) : Result :=
  divideThen (.divS rd a b) (s.reg a) (zext128 (s.scalar b)) (fun q _ => finish rd q s) s

/-- MOD_S (R234). -/
def execModS (rd a b : Reg) (s : State) : Result :=
  divideThen (.modS rd a b) (s.reg a) (zext128 (s.scalar b)) (fun _ r => finish rd r s) s

end Sys2Proof.Machine
end

