-- ==== Sys2Proof/Machine/IncDec.lean ====
section
/-! DEFINITION. Increment and decrement (46_incdec.md). -/

namespace Sys2Proof.Machine

/-- The value INC writes (R260). -/
def inc128 (a : U128) : U128 :=
  let l := lo a + 1
  cat (hi a + bit64 (l == 0)) l

/-- The value DEC writes (R261). -/
def dec128 (a : U128) : U128 :=
  let l := lo a - 1
  cat (hi a - bit64 (lo a == 0)) l

/-- INC (R260). -/
def execInc (rd rs : Reg) (s : State) : Result := finish rd (inc128 (s.reg rs)) s

/-- DEC (R261). -/
def execDec (rd rs : Reg) (s : State) : Result := finish rd (dec128 (s.reg rs)) s

end Sys2Proof.Machine
end

