-- ==== Sys2Proof/Machine/Multiply.lean ====
section
/-! DEFINITION. Multiplication (44_multiply.md). -/

namespace Sys2Proof.Machine

/-- `mul64(a, b)`: the exact product of two limbs (R190, the contract, which alone is normative). -/
def mul64 (a b : U64) : U128 := zext128 a * zext128 b

/-- The source's datapath for `mul64` (R190): four partial products of 32-bit halves. -/
def mul64Datapath (a b : U64) : U128 :=
  let m32 : U64 := 0xFFFFFFFF
  let a1 := a >>> 32
  let a0 := a &&& m32
  let b1 := b >>> 32
  let b0 := b &&& m32
  let p00 := a0 * b0
  let p01 := a0 * b1
  let p10 := a1 * b0
  let p11 := a1 * b1
  let mid := (p00 >>> 32) + (p01 &&& m32) + (p10 &&& m32)
  let l := (p00 &&& m32) ||| ((mid &&& m32) <<< 32)
  let h := p11 + (p01 >>> 32) + (p10 >>> 32) + (mid >>> 32)
  cat h l

/-- The value MUL writes (R192): the cross products are added into the high limb, what overflows it is lost. -/
def mul128 (a b : U128) : U128 :=
  let p := mul64 (lo a) (lo b)
  cat (hi p + lo a * hi b + hi a * lo b) (lo p)

/-- The value MUL_S writes (R193). -/
def mulScalar (a : U128) (x : U64) : U128 :=
  let p := mul64 (lo a) x
  cat (hi p + hi a * x) (lo p)

/-- MUL64 (R191). -/
def execMul64 (rd a b : Reg) (s : State) : Result := finish rd (mul64 (s.scalar a) (s.scalar b)) s

/-- MUL (R192). -/
def execMul (rd a b : Reg) (s : State) : Result := finish rd (mul128 (s.reg a) (s.reg b)) s

/-- MUL_S (R193). -/
def execMulS (rd a b : Reg) (s : State) : Result := finish rd (mulScalar (s.reg a) (s.scalar b)) s

end Sys2Proof.Machine
end

