-- ==== Sys2Proof/Machine/Parse.lean ====
section
/-! DEFINITION. Parsing (47_parse.md): fetching the text, the parse function, PARSE. -/

namespace Sys2Proof.Machine

/-! ### The text (R271) -/

/-- What `fetch_text` ends with. -/
inductive Fetched where
  /-- The bytes to parse. -/
  | text (bytes : List Byte)
  /-- The next byte would lie at `addr`, outside the text memory: TEXT_RANGE. -/
  | outOfRange (addr : Nat)
  /-- The next byte, at `addr`, was never written (log 2). -/
  | unwritten (addr : Nat)
  deriving DecidableEq, Repr

/-- The byte just read goes before the rest of the text. -/
def Fetched.prepend (b : Byte) : Fetched → Fetched
  | .text t => .text (b :: t)
  | .outOfRange a => .outOfRange a
  | .unwritten a => .unwritten a

/-- `fetch_text` from address `a` with at most `n` bytes still to read (R271): it ends at the first 0x00 byte or after
`n` bytes. Addresses do not wrap. -/
def fetchText (m : Memory) (textSize : Nat) : (a n : Nat) → Fetched
  | _, 0 => .text []
  | a, n + 1 =>
    if textSize ≤ a then .outOfRange a
    else
      match m.read a with
      | none => .unwritten a
      | some b => if b = 0 then .text [] else (fetchText m textSize (a + 1) n).prepend b

/-! ### Base, digits, limits -/

/-- The bases of a text (R274). -/
inductive Base where
  | dec
  | hex
  | oct
  | bin
  deriving DecidableEq, Repr

/-- The character code of '0' (R276; log 16). -/
def chZero : Byte := 0x30

/-- The base a prefix letter names: x, X, o, O, b, B (R274). -/
def prefixBase (c : Byte) : Option Base :=
  if c = 0x78 ∨ c = 0x58 then some .hex
  else if c = 0x6F ∨ c = 0x4F then some .oct
  else if c = 0x62 ∨ c = 0x42 then some .bin
  else none

/-- `detect_base(T)` (R274): the base, and the text after the prefix. -/
def detectBase (t : List Byte) : Base × List Byte :=
  match t with
  | c0 :: c1 :: rest =>
    if c0 = chZero then
      match prefixBase c1 with
      | some b => (b, rest)
      | none => (.dec, t)
    else (.dec, t)
  | _ => (.dec, t)

/-- Skipping leading '0' bytes (R275). -/
def skipZeros (t : List Byte) : List Byte := t.dropWhile (· == chZero)

/-- The value of `c` when it lies in the class of bytes `first..last`, whose first byte has the value `base`. -/
def classValue (c : Byte) (first last base : Nat) : Option U64 :=
  if first ≤ c.toNat ∧ c.toNat ≤ last then some (BitVec.ofNat 64 (c.toNat - first + base)) else none

/-- `digit(c, base)` (R276). -/
def digit (c : Byte) : Base → Option U64
  | .bin => classValue c 0x30 0x31 0
  | .oct => classValue c 0x30 0x37 0
  | .dec => classValue c 0x30 0x39 0
  | .hex => (classValue c 0x30 0x39 0).or ((classValue c 0x41 0x46 10).or (classValue c 0x61 0x66 10))

/-- MAXD (R272, R277). -/
def maxDigits : Base → Nat
  | .hex => 32
  | .oct => 43
  | .bin => 128
  | .dec => 39

/-- bpd, the bits of a digit, for the power-of-two bases; decimal has none (R272). -/
def bitsPerDigit : Base → Option U64
  | .hex => some 4
  | .oct => some 3
  | .bin => some 1
  | .dec => none

/-! ### Accumulation -/

/-- What one digit does: a new value, or saturation of the whole parse. -/
inductive DigitStep where
  | value (v : U128)
  | saturate
  deriving DecidableEq, Repr

/-- One digit `dv` added to `v`: shifted in for a power-of-two base (R278); multiplied in and checked for decimal (R279). -/
def digitStep (base : Base) (v : U128) (dv : U64) : DigitStep :=
  match bitsPerDigit base with
  | some n => .value (or128 (shl128 v n) (cat 0 dv))
  | none =>
    let v' := addScalar (mulScalar v 10) dv
    if v' % 10 = zext128 dv then .value v' else .saturate

/-- The digit loop of `parse` (R272): ZERO at the first invalid byte (R276), MAX at a decimal overflow (R279). -/
def accumulate (base : Base) (v : U128) : List Byte → U128
  | [] => v
  | c :: rest =>
    match digit c base with
    | none => zero128
    | some dv =>
      match digitStep base v dv with
      | .value v' => accumulate base v' rest
      | .saturate => max128

/-- `parse(T)` (R272). -/
def parseText (t : List Byte) : U128 :=
  if t = [] then zero128
  else
    let digits := skipZeros (detectBase t).2
    if maxDigits (detectBase t).1 < digits.length then max128 else accumulate (detectBase t).1 zero128 digits

/-! ### The command -/

/-- PARSE (R270, R271). -/
def execParse (rd raddr rlen : Reg) (s : State) : Result :=
  match fetchText s.text s.params.textSize (s.scalar raddr).toNat (s.scalar rlen).toNat with
  | .text t => finish rd (parseText t) s
  | .outOfRange _ => .next (s.raise .textRange (encode (.parse rd raddr rlen)))
  | .unwritten _ => .fault .unwrittenText

end Sys2Proof.Machine
end

