-- ==== Sys2Proof/Machine/Dispatch.lean ====
section
/-! DEFINITION. The meaning of every command, one arm each. -/

namespace Sys2Proof.Machine

def exec (i : Instr) (s : State) : Host.Outcome State Fault Refusal :=
  match i with
  | .create rd rhi rlo => Sys2Proof.Machine.execCreate rd rhi rlo s
  | .fromscalar rd rs => Sys2Proof.Machine.execFromscalar rd rs s
  | .high rd rs => Sys2Proof.Machine.execHigh rd rs s
  | .low rd rs => Sys2Proof.Machine.execLow rd rs s
  | .czero rd => Sys2Proof.Machine.execCzero rd s
  | .cmax rd => Sys2Proof.Machine.execCmax rd s
  | .shl rd a b => Sys2Proof.Machine.execShl rd a b s
  | .shr rd a b => Sys2Proof.Machine.execShr rd a b s
  | .orR rd a b => Sys2Proof.Machine.execOr rd a b s
  | .xorR rd a b => Sys2Proof.Machine.execXor rd a b s
  | .andR rd a b => Sys2Proof.Machine.execAnd rd a b s
  | .orS rd a b => Sys2Proof.Machine.execOrS rd a b s
  | .xorS rd a b => Sys2Proof.Machine.execXorS rd a b s
  | .andS rd a b => Sys2Proof.Machine.execAndS rd a b s
  | .cmpEq rd a b => Sys2Proof.Machine.execEq rd a b s
  | .cmpLt rd a b => Sys2Proof.Machine.execLt rd a b s
  | .cmpLe rd a b => Sys2Proof.Machine.execLe rd a b s
  | .cmpGt rd a b => Sys2Proof.Machine.execGt rd a b s
  | .cmpGe rd a b => Sys2Proof.Machine.execGe rd a b s
  | .add rd a b => Sys2Proof.Machine.execAdd rd a b s
  | .sub rd a b => Sys2Proof.Machine.execSub rd a b s
  | .addS rd a b => Sys2Proof.Machine.execAddS rd a b s
  | .subS rd a b => Sys2Proof.Machine.execSubS rd a b s
  | .mul64 rd a b => Sys2Proof.Machine.execMul64 rd a b s
  | .mul rd a b => Sys2Proof.Machine.execMul rd a b s
  | .mulS rd a b => Sys2Proof.Machine.execMulS rd a b s
  | .divrem rq rr a b => Sys2Proof.Machine.execDivrem rq rr a b s
  | .div rd a b => Sys2Proof.Machine.execDiv rd a b s
  | .mod rd a b => Sys2Proof.Machine.execMod rd a b s
  | .divS rd a b => Sys2Proof.Machine.execDivS rd a b s
  | .modS rd a b => Sys2Proof.Machine.execModS rd a b s
  | .inc rd rs => Sys2Proof.Machine.execInc rd rs s
  | .dec rd rs => Sys2Proof.Machine.execDec rd rs s
  | .parse rd raddr rlen => Sys2Proof.Machine.execParse rd raddr rlen s

end Sys2Proof.Machine
end

