-- ==== Sys2Proof/Machine/HostPort.lean ====
section
/-! DEFINITION. The host window: the control registers and host accesses (10_state.md R25 to R30; 20_memory.md R50 to R66). -/

namespace Sys2Proof.Machine

/-! ### The control and status registers -/

/-- ID (R27). -/
def idWord : BitVec 32 := 0x4352454E

/-- PARAM (R28): TEXT_LOG2 in bits 15:8, REG_COUNT in bits 7:0. -/
def paramWord (p : Params) : BitVec 32 := 0#16 ++ BitVec.ofNat 8 p.textLog2 ++ BitVec.ofNat 8 regCount

/-- The code of a cause (R30). -/
def causeCode : Cause → BitVec 4
  | .none => 0
  | .illegalCmd => 1
  | .divByZero => 2
  | .textRange => 3

/-- STATUS (R25): CAUSE in bits 7:4, OVR, FAULT and BUSY in bits 2, 1, 0; every other bit reads 0. -/
def State.statusWord (s : State) : BitVec 32 :=
  0#24 ++ causeCode s.cause ++ 0#1 ++ BitVec.ofBool s.ovr ++ BitVec.ofBool s.fault ++ BitVec.ofBool s.busy

/-! ### The window map (R51, R52) -/

/-- What a legal access reaches. -/
inductive Target where
  | id
  | param
  | status
  | cmd
  | fcmd
  /-- Bytes of register `r`, from its byte `byteOff`. -/
  | limb (r : Reg) (byteOff : Nat)
  /-- Text bytes from address `a`. -/
  | text (a : Nat)
  deriving DecidableEq, Repr

/-- The register window (R51, R53): register n at 0x100 + 16n, its low limb first. -/
def registerTarget (off : Nat) : Target := .limb (Fin.ofNat 16 ((off - 0x100) / 16)) ((off - 0x100) % 16)

/-- What the access reaches when it is legal; none is a bus error: an unmapped offset, a wrong width or a misaligned
offset (R52). -/
def hostTarget (p : Params) (off : Nat) (width : Width) : Option Target :=
  if off < 0x14 then
    if width = .w32 then
      match off with
      | 0x000 => some .id
      | 0x004 => some .param
      | 0x008 => some .status
      | 0x00C => some .cmd
      | 0x010 => some .fcmd
      | _ => none
    else none
  else if 0x100 ≤ off ∧ off < 0x200 then
    match width with
    | .w32 => if off % 4 = 0 then some (registerTarget off) else none
    | .w64 => if off % 8 = 0 then some (registerTarget off) else none
    | .w8 | .w16 | .w128 => none
  else if 0x1000 ≤ off ∧ off < 0x1000 + p.textSize then
    match width with
    | .w8 => some (.text (off - 0x1000))
    | .w32 => if off % 4 = 0 then some (.text (off - 0x1000)) else none
    | .w64 => if off % 8 = 0 then some (.text (off - 0x1000)) else none
    | .w16 | .w128 => none
  else none

/-! ### Parts of a register -/

/-- The low `8 * bytes` bits of a 64-bit datum. -/
def lowBytes (v : U64) (bytes : Nat) : U64 := v &&& (BitVec.allOnes 64 >>> (64 - 8 * bytes))

/-- The `bytes` bytes of a register from its byte `byteOff`, least significant first (R53). -/
def readLimb (v : U128) (byteOff bytes : Nat) : U64 := lowBytes ((v >>> (8 * byteOff)).setWidth 64) bytes

/-- A register with those bytes replaced and the others kept (R53, R57). -/
def writeLimb (v : U128) (byteOff bytes : Nat) (data : U64) : U128 :=
  (v &&& ~~~(zext128 (lowBytes (BitVec.allOnes 64) bytes) <<< (8 * byteOff)))
    ||| (zext128 (lowBytes data bytes) <<< (8 * byteOff))

/-! ### Accesses -/

/-- The host port answers. -/
def State.respond (s : State) (r : Response) : State := { s with response := some r }

/-- A write dropped because BUSY is 1 sets OVR (R65). -/
def State.dropBusy (s : State) : State := { s with ovr := true, response := some .done }

/-- A read during BUSY of a register limb or of text: any value, drawn afresh (R65, U3; log 6). -/
def State.readAny (s : State) (bytes : Nat) : State :=
  { s with response := some (.data (lowBytes (Config.freeRead s.draws) bytes)), draws := s.draws + 1 }

/-- A host write of `w` to CMD (10_state.md R26): accepted when idle and not halted (R344), dropped with OVR when BUSY
(R65), dropped with no effect when halted (R314). -/
def State.issue (s : State) (w : Cmd) : State :=
  if s.busy then s.dropBusy
  else if s.fault then s.respond .done
  else { s with pend := some w, response := some .done }

/-- A host read (R57: no side effect). A text byte that was never written stops the model (log 2). -/
def hostRead (off : Nat) (width : Width) (s : State) : Result :=
  match hostTarget s.params off width with
  | none => .next (s.respond .busError)
  | some .id => .next (s.respond (.data (idWord.setWidth 64)))
  | some .param => .next (s.respond (.data ((paramWord s.params).setWidth 64)))
  | some .status => .next (s.respond (.data (s.statusWord.setWidth 64)))
  | some .cmd => .next (s.respond (.data 0))
  | some .fcmd => .next (s.respond (.data (s.fcmd.setWidth 64)))
  | some (.limb r byteOff) =>
    if s.busy then .next (s.readAny width.bytes)
    else .next (s.respond (.data (readLimb (s.reg r) byteOff width.bytes)))
  | some (.text a) =>
    if s.busy then .next (s.readAny width.bytes)
    else
      match s.text.readBytes a width.bytes with
      | some v => .next (s.respond (.data v))
      | none => .fault .unwrittenText

/-- A host write: writes to the read-only registers are ignored (R57). -/
def hostWrite (off : Nat) (width : Width) (data : U64) (s : State) : Result :=
  match hostTarget s.params off width with
  | none => .next (s.respond .busError)
  | some .id | some .param | some .status | some .fcmd => .next (s.respond .done)
  | some .cmd => .next (s.issue (data.setWidth 32))
  | some (.limb r byteOff) =>
    if s.busy then .next s.dropBusy
    else .next ((s.setReg r (writeLimb (s.reg r) byteOff width.bytes data)).respond .done)
  | some (.text a) =>
    if s.busy then .next s.dropBusy
    else .next ({ s with text := s.text.writeBytes a data width.bytes }.respond .done)

/-- One host access, indivisible (R58). -/
def hostAccess (a : HostAccess) (s : State) : Result :=
  match a with
  | .read off width => hostRead off width s
  | .write off width data => hostWrite off width data s

end Sys2Proof.Machine
end

