-- ==== Sys2Proof/Machine/Control.lean ====
section
/-! DEFINITION. What one event does to the block: the core's move (70_reset_and_hazards.md R345), a host access, reset. -/

namespace Sys2Proof.Machine

/-- The core's move (R345): with PEND empty it idles (60_exceptions.md R324); else it decodes the word, takes
ILLEGAL_CMD when it is illegal (30_encoding.md R87, R88), and runs the command. -/
def coreStep (s : State) : Result :=
  match s.pend with
  | none => .next s
  | some w =>
    match decode w with
    | .error _ => .next (s.raise .illegalCmd w)
    | .ok i => exec i s

/-- The schedule without its first event. -/
def State.popEvent (s : State) : State := { s with events := s.events.tail }

/-- One step: the first event of the schedule, or the core's move when the schedule is empty (log 4). -/
def eventStep (s : State) : Result :=
  match s.events with
  | [] => coreStep s
  | .core :: _ => coreStep s.popEvent
  | .host a :: _ => hostAccess a s.popEvent
  | .reset :: _ => .next s.popEvent.afterReset

/-- PEND holds `w` and the core moves next: what an accepted CMD write leaves (R344; log 5). -/
def State.withPending (s : State) (w : Cmd) : State := { s with pend := some w, events := .core :: s.events }

end Sys2Proof.Machine
end

