-- ==== Sys2Proof/Laws/Decode.lean ====
section
/-! SUPPORT. The fields of an assembled command word, and decoding it. -/

namespace Sys2Proof

variable (op : BitVec 8) (rd rs1 rs2 rd2 : Reg)

theorem regBits_toFin (r : Reg) : (regBits r).toFin = r := rfl

/-- Bit `k` of an assembled word, field by field (R81). -/
theorem getLsbD_assembleWord (k : Nat) (hk : k < 32) : (assembleWord op rd rs1 rs2 rd2).getLsbD k =
    (op.getLsbD k || decide (8 ≤ k) && (regBits rd).getLsbD (k - 8) || decide (12 ≤ k) && (regBits rs1).getLsbD (k - 12)
      || decide (16 ≤ k) && (regBits rs2).getLsbD (k - 16) || decide (20 ≤ k) && (regBits rd2).getLsbD (k - 20)) := by
  simp only [assembleWord, BitVec.getLsbD_or, BitVec.getLsbD_shiftLeft, BitVec.getLsbD_setWidth]
  have h (n : Nat) : decide (k - n < 32) = true := by simpa using Nat.lt_of_le_of_lt (Nat.sub_le k n) hk
  have ge (n : Nat) : (!decide (k < n)) = decide (n ≤ k) := by simp only [← decide_not, Nat.not_lt]
  simp only [hk, h, ge, decide_true, Bool.true_and]

@[simp] theorem fieldOp_assembleWord : fieldOp (assembleWord op rd rs1 rs2 rd2) = op := by
  apply BitVec.eq_of_getLsbD_eq
  intro i hi
  rw [fieldOp, BitVec.getLsbD_extractLsb', getLsbD_assembleWord _ _ _ _ _ _ (by omega)]
  simp [hi, show ¬8 ≤ i by omega, show ¬12 ≤ i by omega, show ¬16 ≤ i by omega, show ¬20 ≤ i by omega]

@[simp] theorem fieldRd_assembleWord : fieldRd (assembleWord op rd rs1 rs2 rd2) = rd := by
  have h : (assembleWord op rd rs1 rs2 rd2).extractLsb' 8 4 = regBits rd := by
    apply BitVec.eq_of_getLsbD_eq
    intro i hi
    rw [BitVec.getLsbD_extractLsb', getLsbD_assembleWord _ _ _ _ _ _ (by omega)]
    simp [hi, show ¬12 ≤ 8 + i by omega, show ¬16 ≤ 8 + i by omega, show ¬20 ≤ 8 + i by omega]
  rw [fieldRd, h, regBits_toFin]

@[simp] theorem fieldRs1_assembleWord : fieldRs1 (assembleWord op rd rs1 rs2 rd2) = rs1 := by
  have h : (assembleWord op rd rs1 rs2 rd2).extractLsb' 12 4 = regBits rs1 := by
    apply BitVec.eq_of_getLsbD_eq
    intro i hi
    rw [BitVec.getLsbD_extractLsb', getLsbD_assembleWord _ _ _ _ _ _ (by omega)]
    have h0 : op.getLsbD (12 + i) = false := BitVec.getLsbD_of_ge _ _ (by omega)
    have ha : (regBits rd).getLsbD (12 + i - 8) = false := BitVec.getLsbD_of_ge _ _ (by omega)
    simp [hi, h0, ha, show ¬16 ≤ 12 + i by omega, show ¬20 ≤ 12 + i by omega]
  rw [fieldRs1, h, regBits_toFin]

@[simp] theorem fieldRs2_assembleWord : fieldRs2 (assembleWord op rd rs1 rs2 rd2) = rs2 := by
  have h : (assembleWord op rd rs1 rs2 rd2).extractLsb' 16 4 = regBits rs2 := by
    apply BitVec.eq_of_getLsbD_eq
    intro i hi
    rw [BitVec.getLsbD_extractLsb', getLsbD_assembleWord _ _ _ _ _ _ (by omega)]
    have h0 : op.getLsbD (16 + i) = false := BitVec.getLsbD_of_ge _ _ (by omega)
    have ha : (regBits rd).getLsbD (16 + i - 8) = false := BitVec.getLsbD_of_ge _ _ (by omega)
    have hb : (regBits rs1).getLsbD (16 + i - 12) = false := BitVec.getLsbD_of_ge _ _ (by omega)
    simp [hi, h0, ha, hb, show ¬20 ≤ 16 + i by omega]
  rw [fieldRs2, h, regBits_toFin]

@[simp] theorem fieldRd2_assembleWord : fieldRd2 (assembleWord op rd rs1 rs2 rd2) = rd2 := by
  have h : (assembleWord op rd rs1 rs2 rd2).extractLsb' 20 4 = regBits rd2 := by
    apply BitVec.eq_of_getLsbD_eq
    intro i hi
    rw [BitVec.getLsbD_extractLsb', getLsbD_assembleWord _ _ _ _ _ _ (by omega)]
    have h0 : op.getLsbD (20 + i) = false := BitVec.getLsbD_of_ge _ _ (by omega)
    have ha : (regBits rd).getLsbD (20 + i - 8) = false := BitVec.getLsbD_of_ge _ _ (by omega)
    have hb : (regBits rs1).getLsbD (20 + i - 12) = false := BitVec.getLsbD_of_ge _ _ (by omega)
    have hc : (regBits rs2).getLsbD (20 + i - 16) = false := BitVec.getLsbD_of_ge _ _ (by omega)
    simp [hi, h0, ha, hb, hc]
  rw [fieldRd2, h, regBits_toFin]

theorem regBits_zero : regBits 0 = 0#4 := rfl

/-- Outside its register fields an assembled word is its opcode, for each format (R82, R88). -/
theorem assembleWord_and_rd2 (a b d e : Reg) : assembleWord op d a b e &&& formatMask .rd2 = op.setWidth 32 := by
  apply BitVec.eq_of_getLsbD_eq
  intro k hk
  rw [BitVec.getLsbD_and, getLsbD_assembleWord _ _ _ _ _ _ hk]
  simp only [formatMask, BitVec.getLsbD_setWidth, hk, decide_true, Bool.true_and]
  interval_cases k <;> simp

theorem assembleWord_and_rb (a b d : Reg) : assembleWord op d a b 0 &&& formatMask .rb = op.setWidth 32 := by
  apply BitVec.eq_of_getLsbD_eq
  intro k hk
  rw [BitVec.getLsbD_and, getLsbD_assembleWord _ _ _ _ _ _ hk]
  simp only [formatMask, BitVec.getLsbD_setWidth, hk, decide_true, Bool.true_and, regBits_zero]
  interval_cases k <;> simp

theorem assembleWord_and_ru (a d : Reg) : assembleWord op d a 0 0 &&& formatMask .ru = op.setWidth 32 := by
  apply BitVec.eq_of_getLsbD_eq
  intro k hk
  rw [BitVec.getLsbD_and, getLsbD_assembleWord _ _ _ _ _ _ hk]
  simp only [formatMask, BitVec.getLsbD_setWidth, hk, decide_true, Bool.true_and, regBits_zero]
  interval_cases k <;> simp

theorem assembleWord_and_rz (d : Reg) : assembleWord op d 0 0 0 &&& formatMask .rz = op.setWidth 32 := by
  apply BitVec.eq_of_getLsbD_eq
  intro k hk
  rw [BitVec.getLsbD_and, getLsbD_assembleWord _ _ _ _ _ _ hk]
  simp only [formatMask, BitVec.getLsbD_setWidth, hk, decide_true, Bool.true_and, regBits_zero]
  interval_cases k <;> simp

/-- Decoding an assembled word whose opcode names `i` with these fields, once its fixed bits are right. -/
theorem decode_assembled (i : Instr) (d a b e : Reg) (hi : commandOf op.toNat d a b e = some i)
    (ho : opcodeOf i = op) (hm : assembleWord op d a b e &&& formatMask (formatOf i) = op.setWidth 32) :
    decode (assembleWord op d a b e) = .ok i := by
  simp [decode, hi, ho, hm]

end Sys2Proof
end

