-- ==== Sys2Proof/Laws/PerInstr.lean ====
section
/-! SUPPORT. Statements about every command as syntax, one lemma per constructor (LAWS.json). -/

/-- Decoding the word of a command gives the command, with every operand at every value (30_encoding.md R86, R90). -/
def Sys2Proof.Laws.RoundTrip.Statement (i : Sys2Proof.Instr) : Prop := Sys2Proof.decode (Sys2Proof.encode i) = .ok i

namespace Sys2Proof

theorem Laws.RoundTrip.create (d a b : Reg) : Laws.RoundTrip.Statement (.create d a b) :=
  decode_assembled _ _ _ _ _ _ rfl rfl (assembleWord_and_rb _ a b d)

theorem Laws.RoundTrip.fromscalar (d a : Reg) : Laws.RoundTrip.Statement (.fromscalar d a) :=
  decode_assembled _ _ _ _ _ _ rfl rfl (assembleWord_and_ru _ a d)

theorem Laws.RoundTrip.high (d a : Reg) : Laws.RoundTrip.Statement (.high d a) :=
  decode_assembled _ _ _ _ _ _ rfl rfl (assembleWord_and_ru _ a d)

theorem Laws.RoundTrip.low (d a : Reg) : Laws.RoundTrip.Statement (.low d a) :=
  decode_assembled _ _ _ _ _ _ rfl rfl (assembleWord_and_ru _ a d)

theorem Laws.RoundTrip.czero (d : Reg) : Laws.RoundTrip.Statement (.czero d) :=
  decode_assembled _ _ _ _ _ _ rfl rfl (assembleWord_and_rz _ d)

theorem Laws.RoundTrip.cmax (d : Reg) : Laws.RoundTrip.Statement (.cmax d) :=
  decode_assembled _ _ _ _ _ _ rfl rfl (assembleWord_and_rz _ d)

theorem Laws.RoundTrip.shl (d a b : Reg) : Laws.RoundTrip.Statement (.shl d a b) :=
  decode_assembled _ _ _ _ _ _ rfl rfl (assembleWord_and_rb _ a b d)

theorem Laws.RoundTrip.shr (d a b : Reg) : Laws.RoundTrip.Statement (.shr d a b) :=
  decode_assembled _ _ _ _ _ _ rfl rfl (assembleWord_and_rb _ a b d)

theorem Laws.RoundTrip.orR (d a b : Reg) : Laws.RoundTrip.Statement (.orR d a b) :=
  decode_assembled _ _ _ _ _ _ rfl rfl (assembleWord_and_rb _ a b d)

theorem Laws.RoundTrip.xorR (d a b : Reg) : Laws.RoundTrip.Statement (.xorR d a b) :=
  decode_assembled _ _ _ _ _ _ rfl rfl (assembleWord_and_rb _ a b d)

theorem Laws.RoundTrip.andR (d a b : Reg) : Laws.RoundTrip.Statement (.andR d a b) :=
  decode_assembled _ _ _ _ _ _ rfl rfl (assembleWord_and_rb _ a b d)

theorem Laws.RoundTrip.orS (d a b : Reg) : Laws.RoundTrip.Statement (.orS d a b) :=
  decode_assembled _ _ _ _ _ _ rfl rfl (assembleWord_and_rb _ a b d)

theorem Laws.RoundTrip.xorS (d a b : Reg) : Laws.RoundTrip.Statement (.xorS d a b) :=
  decode_assembled _ _ _ _ _ _ rfl rfl (assembleWord_and_rb _ a b d)

theorem Laws.RoundTrip.andS (d a b : Reg) : Laws.RoundTrip.Statement (.andS d a b) :=
  decode_assembled _ _ _ _ _ _ rfl rfl (assembleWord_and_rb _ a b d)

theorem Laws.RoundTrip.cmpEq (d a b : Reg) : Laws.RoundTrip.Statement (.cmpEq d a b) :=
  decode_assembled _ _ _ _ _ _ rfl rfl (assembleWord_and_rb _ a b d)

theorem Laws.RoundTrip.cmpLt (d a b : Reg) : Laws.RoundTrip.Statement (.cmpLt d a b) :=
  decode_assembled _ _ _ _ _ _ rfl rfl (assembleWord_and_rb _ a b d)

theorem Laws.RoundTrip.cmpLe (d a b : Reg) : Laws.RoundTrip.Statement (.cmpLe d a b) :=
  decode_assembled _ _ _ _ _ _ rfl rfl (assembleWord_and_rb _ a b d)

theorem Laws.RoundTrip.cmpGt (d a b : Reg) : Laws.RoundTrip.Statement (.cmpGt d a b) :=
  decode_assembled _ _ _ _ _ _ rfl rfl (assembleWord_and_rb _ a b d)

theorem Laws.RoundTrip.cmpGe (d a b : Reg) : Laws.RoundTrip.Statement (.cmpGe d a b) :=
  decode_assembled _ _ _ _ _ _ rfl rfl (assembleWord_and_rb _ a b d)

theorem Laws.RoundTrip.add (d a b : Reg) : Laws.RoundTrip.Statement (.add d a b) :=
  decode_assembled _ _ _ _ _ _ rfl rfl (assembleWord_and_rb _ a b d)

theorem Laws.RoundTrip.sub (d a b : Reg) : Laws.RoundTrip.Statement (.sub d a b) :=
  decode_assembled _ _ _ _ _ _ rfl rfl (assembleWord_and_rb _ a b d)

theorem Laws.RoundTrip.addS (d a b : Reg) : Laws.RoundTrip.Statement (.addS d a b) :=
  decode_assembled _ _ _ _ _ _ rfl rfl (assembleWord_and_rb _ a b d)

theorem Laws.RoundTrip.subS (d a b : Reg) : Laws.RoundTrip.Statement (.subS d a b) :=
  decode_assembled _ _ _ _ _ _ rfl rfl (assembleWord_and_rb _ a b d)

theorem Laws.RoundTrip.mul64 (d a b : Reg) : Laws.RoundTrip.Statement (.mul64 d a b) :=
  decode_assembled _ _ _ _ _ _ rfl rfl (assembleWord_and_rb _ a b d)

theorem Laws.RoundTrip.mul (d a b : Reg) : Laws.RoundTrip.Statement (.mul d a b) :=
  decode_assembled _ _ _ _ _ _ rfl rfl (assembleWord_and_rb _ a b d)

theorem Laws.RoundTrip.mulS (d a b : Reg) : Laws.RoundTrip.Statement (.mulS d a b) :=
  decode_assembled _ _ _ _ _ _ rfl rfl (assembleWord_and_rb _ a b d)

theorem Laws.RoundTrip.divrem (d e a b : Reg) : Laws.RoundTrip.Statement (.divrem d e a b) :=
  decode_assembled _ _ _ _ _ _ rfl rfl (assembleWord_and_rd2 _ a b d e)

theorem Laws.RoundTrip.div (d a b : Reg) : Laws.RoundTrip.Statement (.div d a b) :=
  decode_assembled _ _ _ _ _ _ rfl rfl (assembleWord_and_rb _ a b d)

theorem Laws.RoundTrip.mod (d a b : Reg) : Laws.RoundTrip.Statement (.mod d a b) :=
  decode_assembled _ _ _ _ _ _ rfl rfl (assembleWord_and_rb _ a b d)

theorem Laws.RoundTrip.divS (d a b : Reg) : Laws.RoundTrip.Statement (.divS d a b) :=
  decode_assembled _ _ _ _ _ _ rfl rfl (assembleWord_and_rb _ a b d)

theorem Laws.RoundTrip.modS (d a b : Reg) : Laws.RoundTrip.Statement (.modS d a b) :=
  decode_assembled _ _ _ _ _ _ rfl rfl (assembleWord_and_rb _ a b d)

theorem Laws.RoundTrip.inc (d a : Reg) : Laws.RoundTrip.Statement (.inc d a) :=
  decode_assembled _ _ _ _ _ _ rfl rfl (assembleWord_and_ru _ a d)

theorem Laws.RoundTrip.dec (d a : Reg) : Laws.RoundTrip.Statement (.dec d a) :=
  decode_assembled _ _ _ _ _ _ rfl rfl (assembleWord_and_ru _ a d)

theorem Laws.RoundTrip.parse (d a b : Reg) : Laws.RoundTrip.Statement (.parse d a b) :=
  decode_assembled _ _ _ _ _ _ rfl rfl (assembleWord_and_rb _ a b d)

end Sys2Proof
end

