-- ==== Sys2Proof/Machine/Assembly.lean ====
section
/-! DEFINITION. The assembly syntax and the pseudo-commands (30_encoding.md R91, R92; log 20). -/

namespace Sys2Proof.Machine

/-! ### Pseudo-commands (R92) -/

/-- `MOV rd, rs` is `OR rd, rs, rs`. -/
def pseudoMov (rd rs : Reg) : Instr := .orR rd rs rs

/-- `CLR rd` is `CZERO rd`. -/
def pseudoClr (rd : Reg) : Instr := .czero rd

/-- `NOT rd, rs, rmax` is `XOR rd, rs, rmax`. -/
def pseudoNot (rd rs rmax : Reg) : Instr := .xorR rd rs rmax

/-- `NEG rd, rzero, rs` is `SUB rd, rzero, rs`. -/
def pseudoNeg (rd rzero rs : Reg) : Instr := .sub rd rzero rs

/-! ### Reading a line (R91) -/

/-- A blank of the assembly syntax. -/
def isBlank (c : Char) : Bool := c == ' ' || c == '\t'

/-- The text without the blanks around it. -/
def trimBlanks (l : List Char) : List Char := ((l.dropWhile isBlank).reverse.dropWhile isBlank).reverse

/-- The parts between commas. -/
def splitCommas : List Char → List (List Char)
  | [] => [[]]
  | c :: rest =>
    if c = ',' then [] :: splitCommas rest
    else
      match splitCommas rest with
      | [] => [[c]]
      | part :: parts => (c :: part) :: parts

/-- A register as it is written: r0 to r15. -/
def regName (r : Reg) : List Char :=
  if r.val < 10 then ['r', Nat.digitChar r.val] else ['r', '1', Nat.digitChar (r.val - 10)]

/-- The register a written name stands for. -/
def readReg (t : List Char) : Option Reg := (List.finRange 16).find? fun r => regName r == t

/-- All operands of a line, or none when one of them is no register. -/
def readOperands : List (List Char) → Option (List Reg)
  | [] => some []
  | t :: rest =>
    match readReg (trimBlanks t), readOperands rest with
    | some r, some rs => some (r :: rs)
    | _, _ => none

/-- A pseudo-command by its name and operands (R92). -/
def pseudoCommand (name : List Char) (operands : List Reg) : Option Instr :=
  if name = ['M', 'O', 'V'] then
    match operands with
    | [d, a] => some (pseudoMov d a)
    | _ => none
  else if name = ['C', 'L', 'R'] then
    match operands with
    | [d] => some (pseudoClr d)
    | _ => none
  else if name = ['N', 'O', 'T'] then
    match operands with
    | [d, a, m] => some (pseudoNot d a m)
    | _ => none
  else if name = ['N', 'E', 'G'] then
    match operands with
    | [d, z, a] => some (pseudoNeg d z a)
    | _ => none
  else none

/-- The row of the opcode table with this mnemonic. -/
def rowNamed (name : List Char) : Option OpcodeRow := opcodeTable.find? fun row => row.mnemonic.toList == name

/-- A command by its mnemonic and operands, in the order of its format (R91): RZ rd; RU rd, rs1; RB rd, rs1, rs2;
RD2 rd, rd2, rs1, rs2. -/
def namedCommand (name : List Char) (operands : List Reg) : Option Instr :=
  match rowNamed name with
  | none => none
  | some row =>
    let op := (fieldOp row.pattern).toNat
    match commandOf op 0 0 0 0 with
    | none => none
    | some i =>
      match formatOf i, operands with
      | .rz, [d] => commandOf op d 0 0 0
      | .ru, [d, a] => commandOf op d a 0 0
      | .rb, [d, a, b] => commandOf op d a b 0
      | .rd2, [d, e, a, b] => commandOf op d a b e
      | _, _ => none

/-- One line of assembly: a mnemonic in either case, operands separated by commas, a comment after `;` (R91). -/
def assembleLine (line : List Char) : Option Instr :=
  let text := trimBlanks (line.takeWhile (· != ';'))
  let name := (text.takeWhile fun c => !isBlank c).map Char.toUpper
  match readOperands (splitCommas (text.dropWhile fun c => !isBlank c)) with
  | none => none
  | some operands => (namedCommand name operands).or (pseudoCommand name operands)

/-! ### Writing a line -/

/-- Operands separated by a comma and a blank. -/
def writeOperands : List Reg → List Char
  | [] => []
  | [r] => regName r
  | r :: rest => regName r ++ [',', ' '] ++ writeOperands rest

/-- The mnemonic of a command, from its row of the opcode table (R86). -/
def mnemonicOf (i : Instr) : List Char :=
  match opcodeTable.find? fun row => fieldOp row.pattern == opcodeOf i with
  | none => []
  | some row => row.mnemonic.toList

/-- A command as one line of assembly (R91). -/
def renderLine (i : Instr) : List Char := mnemonicOf i ++ [' '] ++ writeOperands i.registers

end Sys2Proof.Machine
end

