-- ==== Sys2Proof/Machine/DivideDatapath.lean ====
section
/-! DEFINITION. The divider's internal units (45_divide.md sections 1 to 4). They are no commands and no state; the
commands' results come from the contract R226, and statements say that this datapath meets it. The formulas of R214,
R216, R218 and R220 are ones the spec supplies from general knowledge (log 17). A unit has no meaning outside its
precondition (R227, 93_implementation_defined.md U8), so it answers none there (log 11). -/

namespace Sys2Proof.Machine

/-! ### Leading zeros and normalization (R210, R211) -/

/-- Leading zeros among the low `n` bits of `x`, counted from bit n - 1 down. -/
def leadingZeros (x : U64) : Nat → Nat
  | 0 => 0
  | n + 1 => if x.getLsbD n then 0 else leadingZeros x n + 1

/-- `clz64(x)`, 64 for 0 (R210). -/
def clz64 (x : U64) : Nat := leadingZeros x 64

/-- A u64 divisor is normalized when its top bit is 1 (R211). A u128 divisor is when its high limb is. -/
def normalized (d : U64) : Bool := d.getLsbD 63

/-! ### The reciprocal seed ROM (10_state.md R32, 45_divide.md R212) -/

/-- RECIP_TABLE entries 0x00 to 0x0F. -/
def recipRow0 : List Nat :=
  [0x7FD, 0x7F5, 0x7ED, 0x7E5, 0x7DD, 0x7D5, 0x7CE, 0x7C6,
   0x7BF, 0x7B7, 0x7B0, 0x7A8, 0x7A1, 0x79A, 0x792, 0x78B]

/-- RECIP_TABLE entries 0x10 to 0x1F. -/
def recipRow1 : List Nat :=
  [0x784, 0x77D, 0x776, 0x76F, 0x768, 0x761, 0x75B, 0x754,
   0x74D, 0x747, 0x740, 0x739, 0x733, 0x72C, 0x726, 0x720]

/-- RECIP_TABLE entries 0x20 to 0x2F. -/
def recipRow2 : List Nat :=
  [0x719, 0x713, 0x70D, 0x707, 0x700, 0x6FA, 0x6F4, 0x6EE,
   0x6E8, 0x6E2, 0x6DC, 0x6D6, 0x6D1, 0x6CB, 0x6C5, 0x6BF]

/-- RECIP_TABLE entries 0x30 to 0x3F. -/
def recipRow3 : List Nat :=
  [0x6BA, 0x6B4, 0x6AE, 0x6A9, 0x6A3, 0x69E, 0x698, 0x693,
   0x68D, 0x688, 0x683, 0x67D, 0x678, 0x673, 0x66E, 0x669]

/-- RECIP_TABLE entries 0x40 to 0x4F. -/
def recipRow4 : List Nat :=
  [0x664, 0x65E, 0x659, 0x654, 0x64F, 0x64A, 0x645, 0x640,
   0x63C, 0x637, 0x632, 0x62D, 0x628, 0x624, 0x61F, 0x61A]

/-- RECIP_TABLE entries 0x50 to 0x5F. -/
def recipRow5 : List Nat :=
  [0x616, 0x611, 0x60C, 0x608, 0x603, 0x5FF, 0x5FA, 0x5F6,
   0x5F1, 0x5ED, 0x5E9, 0x5E4, 0x5E0, 0x5DC, 0x5D7, 0x5D3]

/-- RECIP_TABLE entries 0x60 to 0x6F. -/
def recipRow6 : List Nat :=
  [0x5CF, 0x5CB, 0x5C6, 0x5C2, 0x5BE, 0x5BA, 0x5B6, 0x5B2,
   0x5AE, 0x5AA, 0x5A6, 0x5A2, 0x59E, 0x59A, 0x596, 0x592]

/-- RECIP_TABLE entries 0x70 to 0x7F. -/
def recipRow7 : List Nat :=
  [0x58E, 0x58A, 0x586, 0x583, 0x57F, 0x57B, 0x577, 0x574,
   0x570, 0x56C, 0x568, 0x565, 0x561, 0x55E, 0x55A, 0x556]

/-- RECIP_TABLE entries 0x80 to 0x8F. -/
def recipRow8 : List Nat :=
  [0x553, 0x54F, 0x54C, 0x548, 0x545, 0x541, 0x53E, 0x53A,
   0x537, 0x534, 0x530, 0x52D, 0x52A, 0x526, 0x523, 0x520]

/-- RECIP_TABLE entries 0x90 to 0x9F. -/
def recipRow9 : List Nat :=
  [0x51C, 0x519, 0x516, 0x513, 0x50F, 0x50C, 0x509, 0x506,
   0x503, 0x500, 0x4FC, 0x4F9, 0x4F6, 0x4F3, 0x4F0, 0x4ED]

/-- RECIP_TABLE entries 0xA0 to 0xAF. -/
def recipRowA : List Nat :=
  [0x4EA, 0x4E7, 0x4E4, 0x4E1, 0x4DE, 0x4DB, 0x4D8, 0x4D5,
   0x4D2, 0x4CF, 0x4CC, 0x4CA, 0x4C7, 0x4C4, 0x4C1, 0x4BE]

/-- RECIP_TABLE entries 0xB0 to 0xBF. -/
def recipRowB : List Nat :=
  [0x4BB, 0x4B9, 0x4B6, 0x4B3, 0x4B0, 0x4AD, 0x4AB, 0x4A8,
   0x4A5, 0x4A3, 0x4A0, 0x49D, 0x49B, 0x498, 0x495, 0x493]

/-- RECIP_TABLE entries 0xC0 to 0xCF. -/
def recipRowC : List Nat :=
  [0x490, 0x48D, 0x48B, 0x488, 0x486, 0x483, 0x481, 0x47E,
   0x47C, 0x479, 0x477, 0x474, 0x472, 0x46F, 0x46D, 0x46A]

/-- RECIP_TABLE entries 0xD0 to 0xDF. -/
def recipRowD : List Nat :=
  [0x468, 0x465, 0x463, 0x461, 0x45E, 0x45C, 0x459, 0x457,
   0x455, 0x452, 0x450, 0x44E, 0x44B, 0x449, 0x447, 0x444]

/-- RECIP_TABLE entries 0xE0 to 0xEF. -/
def recipRowE : List Nat :=
  [0x442, 0x440, 0x43E, 0x43B, 0x439, 0x437, 0x435, 0x432,
   0x430, 0x42E, 0x42C, 0x42A, 0x428, 0x425, 0x423, 0x421]

/-- RECIP_TABLE entries 0xF0 to 0xFF. -/
def recipRowF : List Nat :=
  [0x41F, 0x41D, 0x41B, 0x419, 0x417, 0x414, 0x412, 0x410,
   0x40E, 0x40C, 0x40A, 0x408, 0x406, 0x404, 0x402, 0x400]

/-- RECIP_TABLE, the 256 values R212 lists. -/
def recipTable : List Nat :=
  recipRow0 ++ recipRow1 ++ recipRow2 ++ recipRow3 ++ recipRow4 ++ recipRow5 ++ recipRow6 ++ recipRow7 ++
  recipRow8 ++ recipRow9 ++ recipRowA ++ recipRowB ++ recipRowC ++ recipRowD ++ recipRowE ++ recipRowF

/-- Entry `i` of the ROM. -/
def recipEntry (i : Nat) : Nat := recipTable.getD i 0

/-! ### Reciprocals -/

/-- The values `rec2by1` computes on its way (R214). -/
structure Rec2by1Steps where
  v0 : U64
  v1 : U64
  v2 : U64
  v3 : U64
  v4 : U64
  deriving DecidableEq, Repr

/-- The datapath of `rec2by1` (R214): the seed, three Newton steps, the final correction. -/
def rec2by1Steps (d : U64) : Rec2by1Steps :=
  let v0 : U64 := BitVec.ofNat 64 (recipEntry ((d >>> 55).toNat - 256))
  let d40 := (d >>> 24) + 1
  let v1 := (v0 <<< 11) - (((v0 * v0 * d40) >>> 40).setWidth 32).setWidth 64 - 1
  let v2 := (v1 <<< 13) + ((v1 * ((1 <<< 60) - v1 * d40)) >>> 47)
  let d0 := d &&& 1
  let d63 := (d >>> 1) + d0
  let e := ((v2 >>> 1) &&& (0 - d0)) - v2 * d63
  let v3 := (hi (mul64 v2 e) >>> 1) + (v2 <<< 31)
  let v4 := v3 - hi (mul64 v3 d + zext128 d) - d
  ⟨v0, v1, v2, v3, v4⟩

/-- The result of the `rec2by1` datapath (R214). -/
def rec2by1Datapath (d : U64) : U64 := (rec2by1Steps d).v4

/-- The one-limb reciprocal the contract asks for, floor((2^128 - 1) / d) - 2^64 (R213). -/
def rec2by1Contract (d : U64) : Nat := (2 ^ 128 - 1) / d.toNat - 2 ^ 64

/-- The two-limb reciprocal the contract asks for, floor((2^192 - 1) / d) - 2^64 (R215). -/
def rec3by2Contract (d : U128) : Nat := (2 ^ 192 - 1) / d.toNat - 2 ^ 64

/-- First correction of `rec3by2` (R216): after p + d0 carries out. -/
def rec3by2First (d1 v p : U64) : U64 × U64 :=
  let v := v - 1
  if d1.ule p then (v - 1, p - d1 - d1) else (v, p - d1)

/-- The datapath of `rec3by2` after the one-limb reciprocal `v` of the high limb (R216). -/
def rec3by2From (v : U64) (d : U128) : U64 :=
  let d1 := hi d
  let d0 := lo d
  let p := d1 * v + d0
  let (v, p) := if p.ult d0 then rec3by2First d1 v p else (v, p)
  let t := mul64 v d0
  let p := p + hi t
  if p.ult (hi t) then
    if d1.ule p && (d1.ult p || d0.ule (lo t)) then v - 1 - 1 else v - 1
  else v

/-- The datapath of `rec3by2` (R216). -/
def rec3by2Datapath (d : U128) : U64 := rec3by2From (rec2by1Datapath (hi d)) d

/-- `rec2by1(d)`, for normalized d only (R213, U8). -/
def rec2by1 (d : U64) : Option U64 := if normalized d then some (rec2by1Datapath d) else none

/-- `rec3by2(d)`, for normalized d only (R215, U8). -/
def rec3by2 (d : U128) : Option U64 := if normalized (hi d) then some (rec3by2Datapath d) else none

/-! ### Division steps -/

/-- The datapath of `div2by1` (R218): one multiply, then at most two corrections. -/
def div2by1Datapath (u : U128) (d v : U64) : U64 × U64 :=
  let g := mul64 v (hi u) + u
  let q := hi g + 1
  let r := lo u - q * d
  let (q, r) := if (lo g).ult r then (q - 1, r + d) else (q, r)
  if d.ule r then (q + 1, r - d) else (q, r)

/-- `div2by1(u, d, v)` inside its precondition: d normalized, u.hi < d, v = rec2by1(d) (R217). -/
def div2by1 (u : U128) (d v : U64) : Option (U64 × U64) :=
  if normalized d && (hi u).ult d && rec2by1 d == some v then some (div2by1Datapath u d v) else none

/-- A value of three limbs, {ex, hi, lo} (R211). -/
structure Limbs3 where
  u2 : U64
  u1 : U64
  u0 : U64
  deriving DecidableEq, Repr

/-- The number three limbs stand for (00_scope.md R8). -/
def Limbs3.toNat (u : Limbs3) : Nat := u.u2.toNat * 2 ^ 128 + u.u1.toNat * 2 ^ 64 + u.u0.toNat

/-- The datapath of `div3by2` (R220). -/
def div3by2Datapath (u : Limbs3) (d : U128) (v : U64) : U64 × U128 :=
  let g := mul64 v u.u2 + cat u.u2 u.u1
  let q := hi g
  let r1 := u.u1 - q * hi d
  let t := mul64 (lo d) q
  let r := cat r1 u.u0 - t - d
  let q := q + 1
  let (q, r) := if (lo g).ule (hi r) then (q - 1, r + d) else (q, r)
  if d.ule r then (q + 1, r - d) else (q, r)

/-- `div3by2(u, d, v)` inside its precondition: d normalized, {u2, u1} < d, v = rec3by2(d) (R219). -/
def div3by2 (u : Limbs3) (d : U128) (v : U64) : Option (U64 × U128) :=
  if normalized (hi d) && (cat u.u2 u.u1).ult d && rec3by2 d == some v then some (div3by2Datapath u d v) else none

/-! ### The dispatch (R221 to R225) -/

/-- The dividend shifted left by `lsh` below 64, as three limbs (R211, R222, R225). -/
def normalizeDividend (x : U128) (lsh : Nat) : Limbs3 :=
  if lsh = 0 then ⟨0, hi x, lo x⟩
  else ⟨hi x >>> (64 - lsh), hi x <<< lsh ||| lo x >>> (64 - lsh), lo x <<< lsh⟩

/-- The narrow-divisor path, y.hi = 0 (R222). -/
def narrowPath (x y : U128) : Option (U128 × U128) :=
  let lsh := clz64 (lo y)
  let yn := lo y <<< lsh
  let xn := normalizeDividend x lsh
  match rec2by1 yn with
  | none => none
  | some v =>
    match div2by1 (cat xn.u2 xn.u1) yn v with
    | none => none
    | some (q1, r1) =>
      match div2by1 (cat r1 xn.u0) yn v with
      | none => none
      | some (q0, r0) => some (cat q1 q0, cat 0 (r0 >>> lsh))

/-- The one-bit path, y.hi <= x.hi and the top bit of y.hi is 1 (R224). -/
def oneBitPath (x y : U128) : U128 × U128 :=
  if (hi y).ult (hi x) || (lo y).ule (lo x) then (cat 0 1, x - y) else (cat 0 0, x)

/-- The wide-divisor normalized path (R225). -/
def widePath (x y : U128) : Option (U128 × U128) :=
  let lsh := clz64 (hi y)
  let yn := cat (hi y <<< lsh ||| lo y >>> (64 - lsh)) (lo y <<< lsh)
  let xn := normalizeDividend x lsh
  match rec3by2 yn with
  | none => none
  | some v =>
    match div3by2 xn yn v with
    | none => none
    | some (q, r) => some (cat 0 q, r >>> lsh)

/-- The divider's dispatch (R221 to R225), in the order its tests are made. It answers none for a zero divisor, for
which `divrem` does not return (R221), and would answer none if a unit were called outside its precondition. -/
def divremDatapath (x y : U128) : Option (U128 × U128) :=
  if y = zero128 then none
  else if hi y = 0 then narrowPath x y
  else if (hi x).ult (hi y) then some (zero128, x)
  else if clz64 (hi y) = 0 then some (oneBitPath x y)
  else widePath x y

end Sys2Proof.Machine
end

