-- ==== Sys2Proof/Safety.lean ====
section
/-! DEFINITION. The terms in which claims about the block are stated: its invariant, frames, fault entries, the host's
duty, safe states. -/

namespace Sys2Proof.Machine

/-! ### The invariant -/

/-- What holds in every state a run from reset reaches. -/
structure State.Inv (s : State) : Prop where
  /-- The text memory is in canonical form. -/
  textWf : s.text.wf = true
  /-- Only existing text bytes hold a value (R31). -/
  textWithin : s.text.within s.params.textSize = true
  /-- A halted block holds no command (R312, R314). -/
  haltedEmpty : s.fault = true → s.pend = none
  /-- CAUSE and FCMD are 0 while FAULT is 0 (R25, R29). -/
  noRecord : s.fault = false → s.cause = .none ∧ s.fcmd = 0
  /-- CAUSE names a fault while FAULT is 1 (R30). -/
  hasCause : s.fault = true → s.cause ≠ .none

/-- A state of a safe run: nothing has faulted and no host write was dropped. -/
def State.Safe (s : State) : Prop := s.Inv ∧ s.fault = false ∧ s.ovr = false

/-! ### What a command changes -/

/-- The registers a command writes (R351). -/
def destinations : Instr → List Reg
  | .divrem q r _ _ => [q, r]
  | .create d _ _ | .fromscalar d _ | .high d _ | .low d _ | .czero d | .cmax d | .shl d _ _ | .shr d _ _ | .orR d _ _
  | .xorR d _ _ | .andR d _ _ | .orS d _ _ | .xorS d _ _ | .andS d _ _ | .cmpEq d _ _ | .cmpLt d _ _ | .cmpLe d _ _
  | .cmpGt d _ _ | .cmpGe d _ _ | .add d _ _ | .sub d _ _ | .addS d _ _ | .subS d _ _ | .mul64 d _ _ | .mul d _ _
  | .mulS d _ _ | .div d _ _ | .mod d _ _ | .divS d _ _ | .modS d _ _ | .inc d _ | .dec d _ | .parse d _ _ => [d]

/-- The registers a command reads whole; of its other source registers it reads only the low limb (30_encoding.md R84). -/
def wholeOperands : Instr → List Reg
  | .create _ _ _ | .fromscalar _ _ | .czero _ | .cmax _ | .mul64 _ _ _ | .parse _ _ _ => []
  | .high _ a | .low _ a | .inc _ a | .dec _ a => [a]
  | .shl _ a _ | .shr _ a _ | .orS _ a _ | .xorS _ a _ | .andS _ a _ | .addS _ a _ | .subS _ a _ | .mulS _ a _
  | .divS _ a _ | .modS _ a _ => [a]
  | .orR _ a b | .xorR _ a b | .andR _ a b | .cmpEq _ a b | .cmpLt _ a b | .cmpLe _ a b | .cmpGt _ a b
  | .cmpGe _ a b | .add _ a b | .sub _ a b | .mul _ a b | .divrem _ _ a b | .div _ a b | .mod _ a b => [a, b]

/-- The frame of a command that completes: PEND is emptied, the listed registers may change, and every other register,
every text byte, STATUS.FAULT, OVR and CAUSE, FCMD, PARAM and the model's own fields are as before. -/
structure OnlyWrites (dst : List Reg) (s t : State) : Prop where
  regs : ∀ r, r ∉ dst → t.reg r = s.reg r
  text : ∀ a, t.text.read a = s.text.read a
  pend : t.pend = none
  fault : t.fault = s.fault
  ovr : t.ovr = s.ovr
  cause : t.cause = s.cause
  fcmd : t.fcmd = s.fcmd
  params : t.params = s.params
  events : t.events = s.events
  response : t.response = s.response
  draws : t.draws = s.draws

/-- Command `i` completes in state `s`: it writes `v` to `rd` and changes nothing else. -/
def Writes (i : Instr) (s : State) (rd : Reg) (v : U128) : Prop :=
  ∃ t, exec i s = .next t ∧ t.reg rd = v ∧ OnlyWrites [rd] s t

/-- `Writes` of a natural number, reduced mod 2^128 (`trunc_128`). -/
def WritesNat (i : Instr) (s : State) (rd : Reg) (n : Nat) : Prop := Writes i s rd (BitVec.ofNat 128 n)

/-- The number register `r` holds. -/
def State.num (s : State) (r : Reg) : Nat := (s.reg r).toNat

/-- The number in the low limb of register `r`. -/
def State.loNum (s : State) (r : Reg) : Nat := s.num r % 2 ^ 64

/-- The number in the high limb of register `r`. -/
def State.hiNum (s : State) (r : Reg) : Nat := s.num r / 2 ^ 64

/-- `t` is `s` after the fault `c` was taken on word `w` (R312, R313): the fault is recorded, PEND emptied, and every
register and text byte and all else is as before. -/
structure FaultEntry (c : Cause) (w : Cmd) (s t : State) : Prop where
  fault : t.fault = true
  cause : t.cause = c
  fcmd : t.fcmd = w
  pend : t.pend = none
  regs : ∀ r, t.reg r = s.reg r
  text : ∀ a, t.text.read a = s.text.read a
  ovr : t.ovr = s.ovr
  params : t.params = s.params
  events : t.events = s.events
  response : t.response = s.response
  draws : t.draws = s.draws

/-- Register `r` after an outcome, when it is a next state. -/
def regAfter (o : Result) (r : Reg) : Option U128 :=
  match o with
  | .next t => some (t.reg r)
  | .fault _ => none
  | .refused _ => none

/-! ### The host's part -/

/-- A host access changes nothing of the block: only the port's answer and the model's draw counter may differ. -/
structure BlockUnchanged (s t : State) : Prop where
  regs : ∀ r, t.reg r = s.reg r
  text : ∀ a, t.text.read a = s.text.read a
  pend : t.pend = s.pend
  fault : t.fault = s.fault
  ovr : t.ovr = s.ovr
  cause : t.cause = s.cause
  fcmd : t.fcmd = s.fcmd
  params : t.params = s.params
  events : t.events = s.events

/-- A write that R65 drops while BUSY is 1: to CMD, a register limb or text memory. -/
def dropsWhenBusy (p : Params) : HostAccess → Bool
  | .read _ _ => false
  | .write off width _ =>
    (HostAccess.write off width 0).wellFormed p && (off == 0x00C || inRegisters off || inText p off)

/-- The host's duty (R347 (a), (b)) at the next event: no write that would be dropped. -/
def State.dutyKept (s : State) : Bool :=
  match s.events with
  | .host a :: _ => !(s.busy && dropsWhenBusy s.params a)
  | .core :: _ => true
  | .reset :: _ => true
  | [] => true

/-- The host keeps its duty in every one of the next `n` steps. -/
def obeysHostDuty : Nat → State → Bool
  | 0, _ => true
  | n + 1, s =>
    s.dutyKept &&
      match step s with
      | .next t => obeysHostDuty n t
      | .fault _ => true
      | .refused _ => true

/-! ### Texts as numbers (47_parse.md section 3) -/

/-- The number a list of digits stands for, most significant digit first. -/
def numberOf (radix : Nat) (digits : List Nat) : Nat := digits.foldl (fun n d => radix * n + d) 0

/-- The radix of a base. -/
def radixOf : Base → Nat
  | .dec => 10
  | .hex => 16
  | .oct => 8
  | .bin => 2

/-- The digit value of a byte as a number; 0 for a byte that is no digit. -/
def digitNum (b : Base) (c : Byte) : Nat := ((digit c b).getD 0).toNat

end Sys2Proof.Machine
end

