-- ==== Sys2Proof/Certificates/Slice0/Obligations.lean ====
section
/-! DEFINITION. The statements about CREN-CORE for the provers. -/

open Sys2Proof Sys2Proof.Machine

/-! ## Encoding -/

/-- 30_encoding.md R81, R82, R86, R90: no bit of an encoding is dropped. -/
def Obligations.DecodeOfEncodeIsTheCommand : Prop := ∀ i : Instr, decode (encode i) = .ok i

/-- R88 to R90: a legal word has exactly one meaning, and every other bit pattern of its fields another. -/
def Obligations.EncodeOfDecodeIsTheWord : Prop := ∀ (w : Cmd) (i : Instr), decode w = .ok i → encode i = w

/-- R87, R88: the legal words are exactly those of the opcode table with their unused fields 0 (`Cmd.wellFormed`, written
from opcode_table.json apart from the decoder); the core's move on any other word takes ILLEGAL_CMD, FCMD <- the word.
The all-zero word is illegal. -/
def Obligations.IllegalWordsFaultAndOthersDecode : Prop :=
  (∀ w : Cmd, (∃ i, decode w = .ok i) ↔ w.wellFormed = true) ∧
  (0 : Cmd).wellFormed = false ∧
  ∀ (s : State) (w : Cmd), s.pend = some w → w.wellFormed = false →
    ∃ t, coreStep s = .next t ∧ FaultEntry .illegalCmd w s t

/-- R93: the spec's own encoding examples. -/
def Obligations.SpecExampleWordsDecode : Prop :=
  decode 0x00021330 = .ok (.add 3 1 2) ∧ decode 0x00421350 = .ok (.divrem 3 4 1 2) ∧
  decode 0x00000705 = .ok (.czero 7) ∧ decode 0x00009203 = .ok (.high 2 9) ∧
  decode 0x00010570 = .ok (.parse 5 0 1) ∧ decode 0x00022612 = .ok (pseudoMov 6 2)

/-! ## Running a command -/

/-- 70_reset_and_hazards.md R345: with a legal word in PEND, a step in which the core moves is `exec` of the decoded
command, at the state whose schedule has lost that move (the empty schedule loses nothing). `withFetchWord` places a word
so that the very next step runs it (log 5). -/
def Obligations.StepRunsThePendingCommand : Prop :=
  ∀ (s : State) (w : Cmd) (i : Instr), decode w = .ok i →
    (s.pend = some w → s.events = [] → step s = exec i s) ∧
    (∀ es, s.pend = some w → s.events = .core :: es → step s = exec i { s with events := es }) ∧
    step (s.withFetchWord 32 w.toNat) = exec i { s with pend := some w }

/-- 60_exceptions.md R324: with PEND empty the core holds its state. -/
def Obligations.IdleCoreHoldsItsState : Prop :=
  ∀ s : State, s.pend = none → coreStep s = .next s ∧ (s.events = [] → step s = .next s)

/-- 10_state.md R26, 70_reset_and_hazards.md R344: a 32-bit host write to CMD is accepted when idle and not halted,
dropped with OVR when BUSY, dropped without any effect when halted; a read of CMD returns 0. That the port answers an
accepted or dropped write with `done` is the model's choice (log 14). -/
def Obligations.CmdWriteIssuesOrIsDropped : Prop :=
  ∀ (s : State) (data : U64),
    (s.busy = false → s.fault = false → hostAccess (.write 0x00C .w32 data) s
      = .next { s with pend := some (data.setWidth 32), response := some .done }) ∧
    (s.busy = true → hostAccess (.write 0x00C .w32 data) s = .next { s with ovr := true, response := some .done }) ∧
    (s.busy = false → s.fault = true →
      hostAccess (.write 0x00C .w32 data) s = .next { s with response := some .done }) ∧
    hostAccess (.read 0x00C .w32) s = .next { s with response := some (.data 0) }

/-- R346: the core's move on a pending command ends it, BUSY falls; the one other end is the model's own stop at a text
byte that was never written (log 2). -/
def Obligations.CoreMoveEndsTheCommand : Prop :=
  ∀ s : State, s.busy = true →
    (∃ t, coreStep s = .next t ∧ t.busy = false) ∨ coreStep s = .fault .unwrittenText

/-! ## Construction -/

/-- 40_construct.md R110 to R115: what CREATE, FROMSCALAR, HIGH, LOW, CZERO and CMAX write, and that they change nothing
else. -/
def Obligations.ConstructionWrites : Prop :=
  ∀ (s : State) (rd a b : Reg),
    WritesNat (.create rd a b) s rd (s.loNum a * 2 ^ 64 + s.loNum b) ∧
    WritesNat (.fromscalar rd a) s rd (s.loNum a) ∧
    WritesNat (.high rd a) s rd (s.hiNum a) ∧
    WritesNat (.low rd a) s rd (s.loNum a) ∧
    WritesNat (.czero rd) s rd 0 ∧
    WritesNat (.cmax rd) s rd (2 ^ 128 - 1)

/-- R116 (which the spec derives): HIGH and LOW after CREATE return the scalars, and the two limbs rebuild any value. -/
def Obligations.CreateThenAccessorsReturnTheScalars : Prop :=
  (∀ (s : State) (rd a b q : Reg), ∃ t,
    exec (.create rd a b) s = .next t ∧
    WritesNat (.high q rd) t q (s.loNum a) ∧ WritesNat (.low q rd) t q (s.loNum b)) ∧
  ∀ v : U128, cat (hi v) (lo v) = v

/-! ## Shifts and logic -/

/-- 41_bitwise.md R130, R131: SHL and SHR by the count in the low limb; a count of 128 or more gives ZERO. -/
def Obligations.ShiftWrites : Prop :=
  ∀ (s : State) (rd a b : Reg),
    WritesNat (.shl rd a b) s rd (if 128 ≤ s.loNum b then 0 else s.num a * 2 ^ s.loNum b) ∧
    WritesNat (.shr rd a b) s rd (if 128 ≤ s.loNum b then 0 else s.num a / 2 ^ s.loNum b)

/-- R132 (which the spec derives): the limb datapaths, whose shifts all stay below 64, are the mathematical shifts. -/
def Obligations.ShiftLimbDatapathIsTheShift : Prop :=
  ∀ (a : U128) (n : Nat), n < 128 →
    (shlLimbs a n).toNat = a.toNat * 2 ^ n % 2 ^ 128 ∧ (shrLimbs a n).toNat = a.toNat / 2 ^ n

/-- R133 to R135: OR, XOR and AND, limb by limb, are the operations on the whole value. -/
def Obligations.LogicWrites : Prop :=
  ∀ (s : State) (rd a b : Reg),
    Writes (.orR rd a b) s rd (s.reg a ||| s.reg b) ∧
    Writes (.xorR rd a b) s rd (s.reg a ^^^ s.reg b) ∧
    Writes (.andR rd a b) s rd (s.reg a &&& s.reg b)

/-- R136 to R138: OR_S, XOR_S and AND_S combine the scalar with the low limb and keep the high limb, AND_S too
(90_conflicts.md C1). -/
def Obligations.ScalarLogicWrites : Prop :=
  ∀ (s : State) (rd a b : Reg),
    WritesNat (.orS rd a b) s rd (s.hiNum a * 2 ^ 64 + (s.loNum a ||| s.loNum b)) ∧
    WritesNat (.xorS rd a b) s rd (s.hiNum a * 2 ^ 64 + (s.loNum a ^^^ s.loNum b)) ∧
    WritesNat (.andS rd a b) s rd (s.hiNum a * 2 ^ 64 + (s.loNum a &&& s.loNum b))

/-! ## Comparison -/

/-- 42_compare.md R150 to R154: EQ, LT, LE, GT and GE write 1 or 0 by the order of the unsigned 128-bit numbers. -/
def Obligations.ComparisonWrites : Prop :=
  ∀ (s : State) (rd a b : Reg),
    WritesNat (.cmpEq rd a b) s rd (if s.num a = s.num b then 1 else 0) ∧
    WritesNat (.cmpLt rd a b) s rd (if s.num a < s.num b then 1 else 0) ∧
    WritesNat (.cmpLe rd a b) s rd (if s.num a ≤ s.num b then 1 else 0) ∧
    WritesNat (.cmpGt rd a b) s rd (if s.num b < s.num a then 1 else 0) ∧
    WritesNat (.cmpGe rd a b) s rd (if s.num b ≤ s.num a then 1 else 0)

/-- R155 (which the spec derives): exactly one of LT, EQ, GT holds, LE and GE are their unions, and the order is that of
the numbers. -/
def Obligations.ComparisonIsATotalOrder : Prop :=
  ∀ a b : U128,
    (lt128 a b).toNat + (eq128 a b).toNat + (lt128 b a).toNat = 1 ∧
    (!lt128 b a) = (lt128 a b || eq128 a b) ∧
    (!lt128 a b) = (lt128 b a || eq128 a b) ∧
    lt128 a b = decide ((hi a).toNat * 2 ^ 64 + (lo a).toNat < (hi b).toNat * 2 ^ 64 + (lo b).toNat)

/-! ## Addition and subtraction -/

/-- 43_addsub.md R170, R171 (closed forms the spec derives): sum and carry, difference and borrow of limbs; the two carry
detectors never both fire. -/
def Obligations.LimbAdderClosedForms : Prop :=
  ∀ (x y : U64) (c : Bool),
    (addc x y c).1.toNat = (x.toNat + y.toNat + c.toNat) % 2 ^ 64 ∧
    (addc x y c).2 = decide (2 ^ 64 ≤ x.toNat + y.toNat + c.toNat) ∧
    ¬((x + y).ult x = true ∧ (x + y + bit64 c).ult (x + y) = true) ∧
    (subb x y c).1.toNat = (2 ^ 65 + x.toNat - y.toNat - c.toNat) % 2 ^ 64 ∧
    (subb x y c).2 = decide (x.toNat < y.toNat + c.toNat)

/-- R172, R173: ADD and SUB modulo 2^128. -/
def Obligations.AddSubWrites : Prop :=
  ∀ (s : State) (rd a b : Reg),
    WritesNat (.add rd a b) s rd (s.num a + s.num b) ∧
    WritesNat (.sub rd a b) s rd (s.num a + (2 ^ 128 - s.num b))

/-- R174, R175: ADD_S and SUB_S with the low limb of RS2, modulo 2^128. -/
def Obligations.ScalarAddSubWrites : Prop :=
  ∀ (s : State) (rd a b : Reg),
    WritesNat (.addS rd a b) s rd (s.num a + s.loNum b) ∧
    WritesNat (.subS rd a b) s rd (s.num a + (2 ^ 128 - s.loNum b))

/-- R176 (which the spec derives): SUB undoes ADD, and the scalar forms are the full forms on {0, s}. -/
def Obligations.AdditionLaws : Prop :=
  ∀ (a b : U128) (x : U64),
    add128 a b = a + b ∧ sub128 a b = a - b ∧ sub128 (add128 a b) b = a ∧
    addScalar a x = add128 a (cat 0 x) ∧ subScalar a x = sub128 a (cat 0 x)

/-- 46_incdec.md R260, R261: INC and DEC modulo 2^128. -/
def Obligations.IncDecWrites : Prop :=
  ∀ (s : State) (rd a : Reg),
    WritesNat (.inc rd a) s rd (s.num a + 1) ∧ WritesNat (.dec rd a) s rd (s.num a + (2 ^ 128 - 1))

/-! ## Multiplication -/

/-- 44_multiply.md R190 (the recombination is one the spec derives): the four-partial-product datapath gives the exact
product. -/
def Obligations.MultiplierDatapathIsExact : Prop :=
  ∀ a b : U64, (mul64Datapath a b).toNat = a.toNat * b.toNat ∧ (mul64 a b).toNat = a.toNat * b.toNat

/-- R191 to R193: MUL64 exactly, MUL and MUL_S modulo 2^128. -/
def Obligations.MultiplyWrites : Prop :=
  ∀ (s : State) (rd a b : Reg),
    WritesNat (.mul64 rd a b) s rd (s.loNum a * s.loNum b) ∧
    WritesNat (.mul rd a b) s rd (s.num a * s.num b) ∧
    WritesNat (.mulS rd a b) s rd (s.num a * s.loNum b)

/-- R194 (which the spec derives). -/
def Obligations.MultiplyLaws : Prop :=
  ∀ (a b : U128) (x : U64),
    mul128 a b = mul128 b a ∧ mulScalar a x = mul128 a (cat 0 x) ∧
    mul64 (lo a) (lo b) = mul128 (cat 0 (lo a)) (cat 0 (lo b))

/-! ## Division -/

/-- 45_divide.md R210: `clz64(x)` zero bits stand above the most significant 1 bit of x, and clz64(0) = 64. -/
def Obligations.LeadingZeroCountContract : Prop :=
  clz64 0 = 64 ∧
  ∀ x : U64, x ≠ 0 → clz64 x ≤ 63 ∧ 2 ^ (63 - clz64 x) ≤ x.toNat ∧ x.toNat < 2 ^ (64 - clz64 x)

/-- R212: the 256 listed seeds are 0x7fd00 div (0x100 | i), and a normalized divisor's index is its bits 62..55. -/
def Obligations.SeedTableFollowsItsFormula : Prop :=
  recipTable.length = 256 ∧
  (∀ i < 256, recipEntry i = 0x7fd00 / (0x100 ||| i)) ∧
  ∀ d : U64, normalized d = true → (d >>> 55).toNat - 256 = (d.extractLsb' 55 8).toNat

/-- R213, R214 (formulas the spec supplies from general knowledge and checks by evaluation, log 17): the Newton datapath
returns the exact one-limb reciprocal of every normalized divisor. -/
def Obligations.OneLimbReciprocalMeetsContract : Prop :=
  ∀ d : U64, normalized d = true → (rec2by1Datapath d).toNat = rec2by1Contract d

/-- R215, R216 (log 17): from the exact reciprocal of the high limb, the correction datapath returns the exact two-limb
reciprocal of every normalized divisor. -/
def Obligations.TwoLimbReciprocalMeetsContract : Prop :=
  ∀ (d : U128) (v : U64), normalized (hi d) = true → v.toNat = rec2by1Contract (hi d) →
    (rec3by2From v d).toNat = rec3by2Contract d

/-- R217, R218 (log 17): inside its precondition the 2-by-1 step gives the floor quotient and the remainder. -/
def Obligations.TwoByOneStepMeetsContract : Prop :=
  ∀ (u : U128) (d v : U64), normalized d = true → (hi u).toNat < d.toNat → v.toNat = rec2by1Contract d →
    (div2by1Datapath u d v).1.toNat = u.toNat / d.toNat ∧ (div2by1Datapath u d v).2.toNat = u.toNat % d.toNat

/-- R219, R220 (log 17): inside its precondition the 3-by-2 step gives the floor quotient and the remainder. -/
def Obligations.ThreeByTwoStepMeetsContract : Prop :=
  ∀ (u : Limbs3) (d : U128) (v : U64), normalized (hi d) = true → (cat u.u2 u.u1).toNat < d.toNat →
    v.toNat = rec3by2Contract d →
    (div3by2Datapath u d v).1.toNat = u.toNat / d.toNat ∧ (div3by2Datapath u d v).2.toNat = u.toNat % d.toNat

/-- R221 to R227: for every divisor but ZERO the dispatch answers, so every unit is called inside its precondition, and
its answer is the floor quotient and the remainder. The spec checks this by evaluation (R226) and derives R227. The units'
formulas are the spec's general knowledge (log 17), and that a unit answers none outside its precondition is the model's
reading of R227 (log 11). -/
def Obligations.DividerDatapathMeetsContract : Prop :=
  ∀ x y : U128, y ≠ 0 →
    divremDatapath x y = some (BitVec.ofNat 128 (x.toNat / y.toNat), BitVec.ofNat 128 (x.toNat % y.toNat))

/-- R230 to R234: with a divisor that is not zero, DIVREM writes quotient and remainder (RD = RD2 keeps the remainder),
DIV and DIV_S the quotient, MOD and MOD_S the remainder, and nothing else changes. -/
def Obligations.DivisionWrites : Prop :=
  ∀ (s : State) (rd rd2 a b : Reg),
    (s.num b ≠ 0 →
      (∃ t, exec (.divrem rd rd2 a b) s = .next t ∧ t.num rd2 = s.num a % s.num b ∧
        (rd ≠ rd2 → t.num rd = s.num a / s.num b) ∧ OnlyWrites [rd, rd2] s t) ∧
      WritesNat (.div rd a b) s rd (s.num a / s.num b) ∧
      WritesNat (.mod rd a b) s rd (s.num a % s.num b)) ∧
    (s.loNum b ≠ 0 →
      WritesNat (.divS rd a b) s rd (s.num a / s.loNum b) ∧
      WritesNat (.modS rd a b) s rd (s.num a % s.loNum b))

/-- R221, R312: when the pending word is a division command whose divisor is zero (for DIV_S and MOD_S a zero low limb,
whatever the high limb), the core's move takes DIV_BY_ZERO, FCMD <- the pending word, and writes no register. -/
def Obligations.ZeroDivisorFaults : Prop :=
  ∀ (s : State) (w : Cmd) (i : Instr) (rd rd2 a b : Reg), s.pend = some w → decode w = .ok i →
    (s.num b = 0 → i ∈ [Instr.divrem rd rd2 a b, .div rd a b, .mod rd a b] →
      ∃ t, coreStep s = .next t ∧ FaultEntry .divByZero w s t) ∧
    (s.loNum b = 0 → i ∈ [Instr.divS rd a b, .modS rd a b] →
      ∃ t, coreStep s = .next t ∧ FaultEntry .divByZero w s t)

/-- R235 (which the spec derives): the round trip q * y + r = x with r < y, run through the multiplier, adder and
comparison of the commands; and the scalar forms are the full forms on {0, s}. -/
def Obligations.DivisionRoundTrip : Prop :=
  (∀ x y : U128, y ≠ 0 →
    add128 (mul128 (divrem x y).1 y) (divrem x y).2 = x ∧ lt128 (divrem x y).2 y = true) ∧
  ∀ (s : State) (rd a b c : Reg), s.reg c = cat 0 (lo (s.reg b)) → s.loNum b ≠ 0 →
    regAfter (exec (.divS rd a b) s) rd = regAfter (exec (.div rd a c) s) rd ∧
    regAfter (exec (.modS rd a b) s) rd = regAfter (exec (.mod rd a c) s) rd

/-! ## Parsing -/

/-- 47_parse.md R274, R276: the base prefixes, with no digits after them ZERO; any other text is decimal whole; the digit
classes and their values. The byte codes are ASCII, which the spec marks as general knowledge (log 16, PRESUMED), and the
lower-case hexadecimal digits are its decision D25 (log 18). -/
def Obligations.PrefixesAndDigitClasses : Prop :=
  (∀ rest : List Byte,
    detectBase (0x30 :: 0x78 :: rest) = (.hex, rest) ∧ detectBase (0x30 :: 0x58 :: rest) = (.hex, rest) ∧
    detectBase (0x30 :: 0x6F :: rest) = (.oct, rest) ∧ detectBase (0x30 :: 0x4F :: rest) = (.oct, rest) ∧
    detectBase (0x30 :: 0x62 :: rest) = (.bin, rest) ∧ detectBase (0x30 :: 0x42 :: rest) = (.bin, rest)) ∧
  (∀ t : List Byte,
    (∀ p rest, t = 0x30 :: p :: rest → p ∉ [(0x78 : Byte), 0x58, 0x6F, 0x4F, 0x62, 0x42]) →
    detectBase t = (.dec, t)) ∧
  (∀ p ∈ [(0x78 : Byte), 0x58, 0x6F, 0x4F, 0x62, 0x42], parseText [0x30, p] = 0) ∧
  ∀ (c : Byte) (v : U64),
    (digit c .bin = some v ↔ 0x30 ≤ c.toNat ∧ c.toNat ≤ 0x31 ∧ v.toNat = c.toNat - 0x30) ∧
    (digit c .oct = some v ↔ 0x30 ≤ c.toNat ∧ c.toNat ≤ 0x37 ∧ v.toNat = c.toNat - 0x30) ∧
    (digit c .dec = some v ↔ 0x30 ≤ c.toNat ∧ c.toNat ≤ 0x39 ∧ v.toNat = c.toNat - 0x30) ∧
    (digit c .hex = some v ↔
      (0x30 ≤ c.toNat ∧ c.toNat ≤ 0x39 ∧ v.toNat = c.toNat - 0x30) ∨
      (0x41 ≤ c.toNat ∧ c.toNat ≤ 0x46 ∧ v.toNat = c.toNat - 0x41 + 10) ∨
      (0x61 ≤ c.toNat ∧ c.toNat ≤ 0x66 ∧ v.toNat = c.toNat - 0x61 + 10))

/-- R270: PARSE completes whenever its text can be fetched: it writes the parsed text to RD and changes nothing else. -/
def Obligations.ParseWritesTheParsedText : Prop :=
  ∀ (s : State) (rd a l : Reg) (t : List Byte),
    fetchText s.text s.params.textSize (s.loNum a) (s.loNum l) = .text t →
    Writes (.parse rd a l) s rd (parseText t)

/-- R271, 20_memory.md R55: the fetched text is the longest run of non-zero bytes in range, at most n of them, and it ends
at a 0x00 byte or at n bytes; fetching fails where the next byte it must read is out of range, or was never written
(the model's stop, log 2). -/
def Obligations.FetchedTextEndsAtNulOrLength : Prop :=
  ∀ (m : Memory) (size a n : Nat),
    (∀ t, fetchText m size a n = .text t ↔
      t.length ≤ n ∧
      (∀ k, ∀ h : k < t.length, a + k < size ∧ m.read (a + k) = some t[k] ∧ t[k] ≠ 0) ∧
      (t.length = n ∨ (a + t.length < size ∧ m.read (a + t.length) = some 0))) ∧
    (∀ x, fetchText m size a n = .outOfRange x ↔
      a ≤ x ∧ x < a + n ∧ size ≤ x ∧ ∀ y, a ≤ y → y < x → y < size ∧ ∃ b, m.read y = some b ∧ b ≠ 0) ∧
    (∀ x, fetchText m size a n = .unwritten x ↔
      a ≤ x ∧ x < a + n ∧ x < size ∧ m.read x = none ∧
        ∀ y, a ≤ y → y < x → ∃ b, m.read y = some b ∧ b ≠ 0)

/-- R271, R55, R312: when the pending word is a PARSE whose text runs, byte by byte non-zero, to an address outside the
text memory, the core's move takes TEXT_RANGE, FCMD <- the pending word, and writes no register. -/
def Obligations.TextOutsideTheMemoryFaults : Prop :=
  ∀ (s : State) (w : Cmd) (rd a l : Reg) (x : Nat), s.pend = some w → decode w = .ok (.parse rd a l) →
    s.loNum a ≤ x → x < s.loNum a + s.loNum l → s.params.textSize ≤ x →
    (∀ y, s.loNum a ≤ y → y < x → y < s.params.textSize ∧ ∃ b, s.text.read y = some b ∧ b ≠ 0) →
    ∃ t, coreStep s = .next t ∧ FaultEntry .textRange w s t

/-- R273: an empty text is ZERO, L = 0 reads nothing whatever the address, and a first byte 0x00 gives ZERO. -/
def Obligations.EmptyTextParsesToZero : Prop :=
  parseText [] = 0 ∧
  ∀ (s : State) (rd a l : Reg),
    (s.loNum l = 0 ∨ (s.loNum a < s.params.textSize ∧ s.text.read (s.loNum a) = some 0)) →
    WritesNat (.parse rd a l) s rd 0

/-- R280 (which the spec derives): a text of decimal digits is MAX when more than 39 are significant, else the smaller of
its number and MAX. The byte codes are ASCII (log 16, PRESUMED). -/
def Obligations.DecimalTextParses : Prop :=
  ∀ ds : List Nat, (∀ d ∈ ds, d < 10) →
    parseText (ds.map fun d => BitVec.ofNat 8 (0x30 + d)) =
      if 39 < (ds.dropWhile (· == 0)).length then BitVec.ofNat 128 (2 ^ 128 - 1)
      else BitVec.ofNat 128 (min (numberOf 10 ds) (2 ^ 128 - 1))

/-- R281 (which the spec derives): a prefix and valid digits give MAX when more than MAXD are significant, else the number
modulo 2^128; hexadecimal and binary numbers then fit, octal ones are below 2^129. The byte codes are ASCII (log 16,
PRESUMED). -/
def Obligations.PowerOfTwoTextParses : Prop :=
  ∀ (p : Byte) (b : Base) (cs : List Byte), prefixBase p = some b → (∀ c ∈ cs, (digit c b).isSome = true) →
    parseText (0x30 :: p :: cs) =
      (if maxDigits b < (cs.dropWhile (· == 0x30)).length then BitVec.ofNat 128 (2 ^ 128 - 1)
      else BitVec.ofNat 128 (numberOf (radixOf b) (cs.map (digitNum b)))) ∧
    ((cs.dropWhile (· == 0x30)).length ≤ maxDigits b →
      numberOf (radixOf b) (cs.map (digitNum b)) < 2 ^ 129 ∧
      (b ≠ .oct → numberOf (radixOf b) (cs.map (digitNum b)) < 2 ^ 128))

/-- R276, R277: the bytes after prefix and leading zeros are counted before any is validated: too many give MAX (the spec's
decision D24, log 18); within the limit an invalid byte gives ZERO, for every base. The limits are 32, 43, 128 and 39. That
no decimal overflow (R279) comes before an invalid byte within the limit is derived, as in R280. -/
def Obligations.CountIsCheckedBeforeDigits : Prop :=
  maxDigits .hex = 32 ∧ maxDigits .oct = 43 ∧ maxDigits .bin = 128 ∧ maxDigits .dec = 39 ∧
  ∀ (t : List Byte) (b : Base) (rest : List Byte), detectBase t = (b, rest) →
    (maxDigits b < (rest.dropWhile (· == 0x30)).length → parseText t = BitVec.ofNat 128 (2 ^ 128 - 1)) ∧
    ((rest.dropWhile (· == 0x30)).length ≤ maxDigits b → (∃ c ∈ rest, digit c b = none) → parseText t = 0)

/-! ## The host window -/

/-- 10_state.md R25, R27 to R30: reading ID, PARAM, STATUS and FCMD, in every state, without any other effect (20_memory.md
R57). That the datum is held zero-extended to 64 bits is the model's choice (log 15). -/
def Obligations.ControlRegistersReadAsSpecified : Prop :=
  (∀ s : State,
    hostAccess (.read 0x000 .w32) s = .next { s with response := some (.data 0x4352454E) } ∧
    hostAccess (.read 0x004 .w32) s
      = .next { s with response := some (.data (BitVec.ofNat 64 (s.params.textLog2 * 2 ^ 8 + 16))) } ∧
    hostAccess (.read 0x008 .w32) s
      = .next { s with response := some (.data (BitVec.ofNat 64 (s.busy.toNat + 2 * s.fault.toNat + 4 * s.ovr.toNat
          + 16 * (causeCode s.cause).toNat))) } ∧
    hostAccess (.read 0x010 .w32) s = .next { s with response := some (.data (s.fcmd.setWidth 64)) }) ∧
  causeCode .none = 0 ∧ causeCode .illegalCmd = 1 ∧ causeCode .divByZero = 2 ∧ causeCode .textRange = 3 ∧
  ∀ p : Params, 4 ≤ p.textLog2 ∧ p.textLog2 ≤ 12 ∧ p.textSize = 2 ^ p.textLog2

/-- 20_memory.md R51, R53, R57: 64-bit and 32-bit accesses to the register window while BUSY is 0 (also when halted,
R66): a write replaces exactly the addressed bits of its register, a read returns them. That the port answers an
accepted write with `done` (log 14) and holds a 32-bit datum zero-extended to 64 bits (log 15) are the model's choices. -/
def Obligations.RegisterWindowReadsAndWrites : Prop :=
  ∀ (s : State) (r : Reg) (data : U64), s.busy = false →
    hostAccess (.write (0x100 + 16 * r.val) .w64 data) s
      = .next { s.setReg r (cat (hi (s.reg r)) data) with response := some .done } ∧
    hostAccess (.write (0x108 + 16 * r.val) .w64 data) s
      = .next { s.setReg r (cat data (lo (s.reg r))) with response := some .done } ∧
    hostAccess (.read (0x100 + 16 * r.val) .w64) s = .next { s with response := some (.data (lo (s.reg r))) } ∧
    hostAccess (.read (0x108 + 16 * r.val) .w64) s = .next { s with response := some (.data (hi (s.reg r))) } ∧
    ∀ k < 4,
      (∃ v : U128,
        (∀ i < 128, v.getLsbD i
          = if 32 * k ≤ i ∧ i < 32 * k + 32 then data.getLsbD (i - 32 * k) else (s.reg r).getLsbD i) ∧
        hostAccess (.write (0x100 + 16 * r.val + 4 * k) .w32 data) s
          = .next { s.setReg r v with response := some .done }) ∧
      hostAccess (.read (0x100 + 16 * r.val + 4 * k) .w32) s
        = .next { s with response := some (.data (BitVec.ofNat 64 (s.num r / 2 ^ (32 * k) % 2 ^ 32))) }

/-- 20_memory.md R51, R53, R54, R57: aligned 8-, 32- and 64-bit accesses to text while BUSY is 0: a write sets exactly the
addressed bytes, little-endian; a read returns them; a read that meets a byte nothing has written stops (the model's
choice, log 2). That the port answers an accepted write with `done` (log 14) and holds the datum zero-extended to 64 bits
(log 15) are the model's choices too. -/
def Obligations.TextWindowReadsAndWrites : Prop :=
  ∀ (s : State) (a : Nat) (width : Width) (data : U64), s.busy = false → width ∈ [Width.w8, .w32, .w64] →
    a < s.params.textSize → (0x1000 + a) % width.bytes = 0 →
    (∃ t, hostAccess (.write (0x1000 + a) width data) s = .next t ∧
      (∀ k < width.bytes, t.text.read (a + k) = some (data.extractLsb' (8 * k) 8)) ∧
      (∀ x, x < a ∨ a + width.bytes ≤ x → t.text.read x = s.text.read x) ∧
      t = { s with text := t.text, response := some .done }) ∧
    ((∀ k < width.bytes, (s.text.read (a + k)).isSome = true) →
      ∃ v : U64, hostAccess (.read (0x1000 + a) width) s = .next { s with response := some (.data v) } ∧
        (∀ k < width.bytes, s.text.read (a + k) = some (v.extractLsb' (8 * k) 8)) ∧
        v.toNat < 2 ^ (8 * width.bytes)) ∧
    ((∃ k < width.bytes, s.text.read (a + k) = none) →
      hostAccess (.read (0x1000 + a) width) s = .fault .unwrittenText)

/-- R52, 60_exceptions.md R326: an access gets a bus error exactly when it is unmapped, of a wrong width or misaligned
(`HostAccess.wellFormed`, written apart from the host port), and then changes no state of the block. -/
def Obligations.BusErrorsAreExactlyTheIllegalAccesses : Prop :=
  ∀ (a : HostAccess) (s : State),
    a.wellFormed s.params = false ↔ hostAccess a s = .next { s with response := some .busError }

/-- 20_memory.md R65: while BUSY is 1 a legal write to CMD, a register limb or text is dropped and sets OVR; a legal read
of a register limb or of text answers some value and changes nothing. The answer `done` to a dropped write (log 14) and the
draw counter (log 6) are the model's. -/
def Obligations.BusyWindowDropsWrites : Prop :=
  ∀ s : State, s.busy = true →
    (∀ a, dropsWhenBusy s.params a = true → hostAccess a s = .next { s with ovr := true, response := some .done }) ∧
    ∀ off width, (HostAccess.read off width).wellFormed s.params = true →
      (inRegisters off || inText s.params off) = true →
      ∃ v, hostAccess (.read off width) s = .next { s with response := some (.data v), draws := s.draws + 1 }

/-- R57: no host read has a side effect, and writes to ID, PARAM, STATUS and FCMD are ignored (answered `done`, log 14). -/
def Obligations.HostReadsHaveNoSideEffect : Prop :=
  (∀ (off : Nat) (width : Width) (s t : State), hostAccess (.read off width) s = .next t → BlockUnchanged s t) ∧
  ∀ off ∈ [0x000, 0x004, 0x008, 0x010], ∀ (data : U64) (s : State),
    hostAccess (.write off .w32 data) s = .next { s with response := some .done }

/-! ## The whole machine -/

/-- Every step keeps the invariant: canonical text memory within TEXT_SIZE (R31), a halted block holds no command (R314),
CAUSE and FCMD are 0 exactly as R25, R29 and R30 say. -/
def Obligations.StepKeepsTheInvariant : Prop := ∀ s t : State, s.Inv → step s = .next t → t.Inv

/-- The state after reset meets the invariant, for every TEXT_SIZE. -/
def Obligations.ResetMeetsTheInvariant : Prop := State.reset.Inv ∧ ∀ p : Params, (State.resetWith p).Inv

/-- 70_reset_and_hazards.md R340, R341, R344, 10_state.md R36: the reset event, from any state, leaves STATUS and FCMD 0,
PEND empty, PARAM as configured, and a block that accepts a command at the first CMD write; in `State.reset` too STATUS and
FCMD are 0 and PEND is empty. That reset keeps the rest of the schedule (log 22) and that the port answers the accepted
write with `done` (log 14) are the model's choices. -/
def Obligations.ResetLeavesTheBlockIdle : Prop :=
  (∀ (s : State) (es : List Event), s.events = .reset :: es →
    ∃ t, step s = .next t ∧ t.statusWord = 0 ∧ t.fcmd = 0 ∧ t.pend = none ∧ t.params = s.params ∧ t.events = es ∧
      ∀ data, hostAccess (.write 0x00C .w32 data) t
        = .next { t with pend := some (data.setWidth 32), response := some .done }) ∧
  State.reset.statusWord = 0 ∧ State.reset.fcmd = 0 ∧ State.reset.pend = none

/-- 60_exceptions.md R314, R315: from a halted state no step but reset changes FAULT, CAUSE or FCMD or lets a command be
pending; and OVR, once 1, stays 1 until reset (R316). -/
def Obligations.FaultStaysUntilReset : Prop :=
  ∀ s t : State, s.Inv → (∀ es, s.events ≠ .reset :: es) → step s = .next t →
    (s.fault = true → t.fault = true ∧ t.cause = s.cause ∧ t.fcmd = s.fcmd ∧ t.pend = none) ∧
    (s.ovr = true → t.ovr = true)

/-- R312, R313, 10_state.md R29: the step that sets FAULT is the core's move on a pending word; FCMD is that very word, a
cause is recorded, PEND is empty, and no register and no text byte has changed. -/
def Obligations.FirstFaultRecordsItsCommand : Prop :=
  ∀ s t : State, s.fault = false → step s = .next t → t.fault = true →
    ∃ w c, s.pend = some w ∧ c ≠ .none ∧ FaultEntry c w s.popEvent t

/-- Every command answers a next state in every state, but PARSE where it meets a text byte that was never written, and
there it stops (the model's choice, log 2; 93_implementation_defined.md U2). -/
def Obligations.OnlyParseStops : Prop :=
  ∀ (i : Instr) (s : State),
    ((∃ t, exec i s = .next t) ∨ exec i s = .fault .unwrittenText) ∧
    (exec i s = .fault .unwrittenText ↔ ∃ rd a l x, i = .parse rd a l ∧
      fetchText s.text s.params.textSize (s.loNum a) (s.loNum l) = .unwritten x)

/-- 10_state.md R24, 20_memory.md R54, 70_reset_and_hazards.md R345: whatever a command does, only its destination
registers may change, no text byte, OVR bit or configuration does, PEND ends empty, and STATUS and FCMD change only with a
fault. -/
def Obligations.CommandsChangeOnlyTheirDestinations : Prop :=
  ∀ (i : Instr) (s t : State), exec i s = .next t →
    (∀ r, r ∉ destinations i → t.reg r = s.reg r) ∧ (∀ a, t.text.read a = s.text.read a) ∧
    t.pend = none ∧ t.ovr = s.ovr ∧ t.params = s.params ∧ t.events = s.events ∧ t.response = s.response ∧
    t.draws = s.draws ∧
    ((t.fault = s.fault ∧ t.cause = s.cause ∧ t.fcmd = s.fcmd) ∨
      (t.fault = true ∧ t.cause ≠ .none ∧ ∀ r, t.reg r = s.reg r))

/-- 30_encoding.md R84: a source register that a command does not read whole influences it by its low limb only. -/
def Obligations.ScalarOperandsIgnoreTheHighLimb : Prop :=
  ∀ (i : Instr) (s : State) (r : Reg) (v : U128), r ∉ wholeOperands i → lo v = lo (s.reg r) →
    ∀ q, q ≠ r → regAfter (exec i (s.setReg r v)) q = regAfter (exec i s) q

/-- 10_state.md R34, 20_memory.md R59: PEND, and so BUSY, changes only by an accepted CMD write, by the core's move, which
empties it, or by reset. -/
def Obligations.PendChangesOnlyByIssueCompletionOrReset : Prop :=
  ∀ s t : State, step s = .next t → t.pend ≠ s.pend →
    (∃ es, s.events = .reset :: es ∧ t.pend = none) ∨
    ((s.events = [] ∨ ∃ es, s.events = .core :: es) ∧ s.busy = true ∧ t.pend = none) ∨
    (∃ data es, s.events = .host (.write 0x00C .w32 data) :: es ∧ s.busy = false ∧ s.fault = false ∧
      t.pend = some (data.setWidth 32))

/-- 70_reset_and_hazards.md R347, 60_exceptions.md R316: a host that keeps its duty at a step does not set OVR by it. -/
def Obligations.HostDutyKeepsOvrClear : Prop :=
  ∀ s t : State, s.dutyKept = true → s.ovr = false → step s = .next t → t.ovr = false

/-- 30_encoding.md R92: MOV copies, CLR clears, NOT complements when R[rmax] = MAX, NEG negates when R[rzero] = ZERO. -/
def Obligations.PseudoCommandsDoWhatTheySay : Prop :=
  ∀ (s : State) (rd a b : Reg),
    Writes (pseudoMov rd a) s rd (s.reg a) ∧
    WritesNat (pseudoClr rd) s rd 0 ∧
    (s.num b = 2 ^ 128 - 1 → Writes (pseudoNot rd a b) s rd (~~~ s.reg a)) ∧
    (s.num b = 0 → WritesNat (pseudoNeg rd b a) s rd (2 ^ 128 - s.num a))

/-- 10_state.md R28: the configuration that PARAM reports is the same ever after. -/
def Obligations.ConfigurationNeverChanges : Prop := ∀ s t : State, step s = .next t → t.params = s.params
end

