-- ==== Sys2Proof/Laws/Memory.lean ====
section
/-! SUPPORT. The text memory: reading after writing, and the canonical form under every write. -/

namespace Sys2Proof.Machine

theorem Memory.wf_cons (c : Host.Cell) (m : Memory) :
    Memory.wf (c :: m) = true ↔ (∀ d ∈ m, c.1 < d.1) ∧ Memory.wf m = true := by
  simp [Memory.wf]

/-! ### One byte -/

theorem Memory.read_write_same (m : Memory) (a : Nat) (b : Byte) : (m.write a b).read a = some b := by
  induction m with
  | nil => simp [Memory.write, Memory.read]
  | cons c m ih =>
    simp only [Memory.write]
    split
    · simp [Memory.read]
    · split
      · simp [Memory.read]
      · rename_i h
        simp [Memory.read, ih, Ne.symm h]

theorem Memory.read_write_ne (m : Memory) (a x : Nat) (b : Byte) (h : x ≠ a) :
    (m.write a b).read x = m.read x := by
  induction m with
  | nil => simp [Memory.write, Memory.read, h.symm]
  | cons c m ih =>
    simp only [Memory.write]
    split
    · simp [Memory.read, h.symm]
    · split
      · rename_i e
        simp [Memory.read, h.symm, ← e]
      · simp [Memory.read, ih]

/-- Every entry of a written memory is an old one or the new one. -/
theorem Memory.mem_write (m : Memory) (a : Nat) (b : Byte) (c : Host.Cell) (h : c ∈ m.write a b) :
    c ∈ m ∨ c = (a, b) := by
  induction m with
  | nil => simpa [Memory.write] using h
  | cons d m ih =>
    simp only [Memory.write] at h
    split at h
    · rcases List.mem_cons.1 h with h | h
      · exact .inr h
      · exact .inl h
    · split at h
      · rcases List.mem_cons.1 h with h | h
        · exact .inr h
        · exact .inl (List.mem_cons_of_mem _ h)
      · rcases List.mem_cons.1 h with h | h
        · exact .inl (h ▸ List.mem_cons_self)
        · exact (ih h).imp (List.mem_cons_of_mem _) id

/-- A write keeps the canonical form. -/
theorem Memory.wf_write (m : Memory) (a : Nat) (b : Byte) (h : m.wf = true) : (m.write a b).wf = true := by
  induction m with
  | nil => simp [Memory.write, Memory.wf]
  | cons c m ih =>
    have hc := (Memory.wf_cons c m).1 h
    simp only [Memory.write]
    split
    · rename_i hlt
      refine (Memory.wf_cons _ _).2 ⟨fun d hd => ?_, h⟩
      rcases List.mem_cons.1 hd with e | hd
      · exact e ▸ hlt
      · exact Nat.lt_trans hlt (hc.1 d hd)
    · split
      · rename_i e
        exact (Memory.wf_cons _ _).2 ⟨fun d hd => by have := hc.1 d hd; simp_all, hc.2⟩
      · rename_i hge hne
        refine (Memory.wf_cons _ _).2 ⟨fun d hd => ?_, ih hc.2⟩
        rcases Memory.mem_write m a b d hd with hd | e
        · exact hc.1 d hd
        · subst e
          exact Nat.lt_of_le_of_ne (Nat.le_of_not_lt hge) (Ne.symm hne)

/-- A write to an existing byte keeps the memory within its size. -/
theorem Memory.within_write (n : Nat) (m : Memory) (a : Nat) (b : Byte) (h : m.within n = true) (ha : a < n) :
    (m.write a b).within n = true := by
  simp only [Memory.within, List.all_eq_true, decide_eq_true_eq] at h ⊢
  intro c hc
  rcases Memory.mem_write m a b c hc with hc | rfl
  · exact h c hc
  · exact ha

/-- Two canonical memories that read the same everywhere are the same list. -/
theorem Memory.read_lt_head (c : Host.Cell) (m : Memory) (x : Nat) (h : Memory.wf (c :: m) = true) (hx : x < c.1) :
    Memory.read (c :: m) x = none := by
  have key : ∀ (l : Memory), (∀ d ∈ l, x < d.1) → l.read x = none := by
    intro l
    induction l with
    | nil => simp [Memory.read]
    | cons d l ih =>
      intro hl
      have hd := hl d List.mem_cons_self
      simp [Memory.read, Nat.ne_of_gt hd, ih fun e he => hl e (List.mem_cons_of_mem _ he)]
  refine key _ fun d hd => ?_
  rcases List.mem_cons.1 hd with e | hd
  · exact e ▸ hx
  · exact Nat.lt_trans hx (((Memory.wf_cons c m).1 h).1 d hd)

/-! ### Several bytes -/

theorem Memory.read_writeBytes_outside (m : Memory) (a x : Nat) (data : U64) (n : Nat) (h : x < a ∨ a + n ≤ x) :
    (m.writeBytes a data n).read x = m.read x := by
  induction n with
  | zero => rfl
  | succ n ih =>
    rw [Memory.writeBytes, Memory.read_write_ne _ _ _ _ (by omega), ih (by omega)]

theorem Memory.read_writeBytes_inside (m : Memory) (a k : Nat) (data : U64) (n : Nat) (h : k < n) :
    (m.writeBytes a data n).read (a + k) = some (data.extractLsb' (8 * k) 8) := by
  induction n with
  | zero => omega
  | succ n ih =>
    rw [Memory.writeBytes]
    by_cases e : k = n
    · subst e
      exact Memory.read_write_same ..
    · rw [Memory.read_write_ne _ _ _ _ (by omega), ih (by omega)]

theorem Memory.wf_writeBytes (m : Memory) (a : Nat) (data : U64) (n : Nat) (h : m.wf = true) :
    (m.writeBytes a data n).wf = true := by
  induction n with
  | zero => exact h
  | succ n ih => exact Memory.wf_write _ _ _ ih

theorem Memory.within_writeBytes (size : Nat) (m : Memory) (a : Nat) (data : U64) (n : Nat)
    (h : m.within size = true) (ha : a + n ≤ size) : (m.writeBytes a data n).within size = true := by
  induction n with
  | zero => exact h
  | succ n ih => exact Memory.within_write _ _ _ _ (ih (by omega)) (by omega)

/-- A read of several bytes answers exactly when every byte was written. -/
theorem Memory.readBytes_isSome (m : Memory) (a n : Nat) :
    (m.readBytes a n).isSome = true ↔ ∀ k < n, (m.read (a + k)).isSome = true := by
  induction n with
  | zero => simp [Memory.readBytes]
  | succ n ih =>
    rw [Memory.readBytes]
    constructor
    · intro h k hk
      cases h1 : m.readBytes a n <;> cases h2 : m.read (a + n) <;> simp [h1, h2] at h ih
      rcases Nat.lt_succ_iff_lt_or_eq.1 hk with hk | rfl
      · exact ih k hk
      · simp [h2]
    · intro h
      have h1 := ih.2 fun k hk => h k (by omega)
      have h2 := h n (by omega)
      cases e1 : m.readBytes a n <;> cases e2 : m.read (a + n) <;> simp_all

end Sys2Proof.Machine
end

