-- ==== Sys2Proof/Laws/State.lean ====
section
/-! SUPPORT. Each field of State after each update, and registers after writes. -/

namespace Sys2Proof.Machine

variable (s : State)

/-! ### `x[r] <- v` -/

@[simp] theorem State.setReg_regs (r : Reg) (v : U128) : (s.setReg r v).regs = s.regs.set r.val v := rfl
@[simp] theorem State.setReg_text (r : Reg) (v : U128) : (s.setReg r v).text = s.text := rfl
@[simp] theorem State.setReg_pend (r : Reg) (v : U128) : (s.setReg r v).pend = s.pend := rfl
@[simp] theorem State.setReg_fault (r : Reg) (v : U128) : (s.setReg r v).fault = s.fault := rfl
@[simp] theorem State.setReg_ovr (r : Reg) (v : U128) : (s.setReg r v).ovr = s.ovr := rfl
@[simp] theorem State.setReg_cause (r : Reg) (v : U128) : (s.setReg r v).cause = s.cause := rfl
@[simp] theorem State.setReg_fcmd (r : Reg) (v : U128) : (s.setReg r v).fcmd = s.fcmd := rfl
@[simp] theorem State.setReg_params (r : Reg) (v : U128) : (s.setReg r v).params = s.params := rfl
@[simp] theorem State.setReg_events (r : Reg) (v : U128) : (s.setReg r v).events = s.events := rfl
@[simp] theorem State.setReg_response (r : Reg) (v : U128) : (s.setReg r v).response = s.response := rfl
@[simp] theorem State.setReg_draws (r : Reg) (v : U128) : (s.setReg r v).draws = s.draws := rfl

/-! ### Completion -/

@[simp] theorem State.retire_regs : (s.retire).regs = s.regs := rfl
@[simp] theorem State.retire_text : (s.retire).text = s.text := rfl
@[simp] theorem State.retire_pend : (s.retire).pend = none := rfl
@[simp] theorem State.retire_fault : (s.retire).fault = s.fault := rfl
@[simp] theorem State.retire_ovr : (s.retire).ovr = s.ovr := rfl
@[simp] theorem State.retire_cause : (s.retire).cause = s.cause := rfl
@[simp] theorem State.retire_fcmd : (s.retire).fcmd = s.fcmd := rfl
@[simp] theorem State.retire_params : (s.retire).params = s.params := rfl
@[simp] theorem State.retire_events : (s.retire).events = s.events := rfl
@[simp] theorem State.retire_response : (s.retire).response = s.response := rfl
@[simp] theorem State.retire_draws : (s.retire).draws = s.draws := rfl

/-! ### Taking a fault -/

@[simp] theorem State.raise_regs (c : Cause) (w : Cmd) : (s.raise c w).regs = s.regs := rfl
@[simp] theorem State.raise_text (c : Cause) (w : Cmd) : (s.raise c w).text = s.text := rfl
@[simp] theorem State.raise_pend (c : Cause) (w : Cmd) : (s.raise c w).pend = none := rfl
@[simp] theorem State.raise_fault (c : Cause) (w : Cmd) : (s.raise c w).fault = true := rfl
@[simp] theorem State.raise_ovr (c : Cause) (w : Cmd) : (s.raise c w).ovr = s.ovr := rfl
@[simp] theorem State.raise_cause (c : Cause) (w : Cmd) : (s.raise c w).cause = c := rfl
@[simp] theorem State.raise_fcmd (c : Cause) (w : Cmd) : (s.raise c w).fcmd = w := rfl
@[simp] theorem State.raise_params (c : Cause) (w : Cmd) : (s.raise c w).params = s.params := rfl
@[simp] theorem State.raise_events (c : Cause) (w : Cmd) : (s.raise c w).events = s.events := rfl
@[simp] theorem State.raise_response (c : Cause) (w : Cmd) : (s.raise c w).response = s.response := rfl
@[simp] theorem State.raise_draws (c : Cause) (w : Cmd) : (s.raise c w).draws = s.draws := rfl

/-! ### The port answers -/

@[simp] theorem State.respond_regs (r : Response) : (s.respond r).regs = s.regs := rfl
@[simp] theorem State.respond_text (r : Response) : (s.respond r).text = s.text := rfl
@[simp] theorem State.respond_pend (r : Response) : (s.respond r).pend = s.pend := rfl
@[simp] theorem State.respond_fault (r : Response) : (s.respond r).fault = s.fault := rfl
@[simp] theorem State.respond_ovr (r : Response) : (s.respond r).ovr = s.ovr := rfl
@[simp] theorem State.respond_cause (r : Response) : (s.respond r).cause = s.cause := rfl
@[simp] theorem State.respond_fcmd (r : Response) : (s.respond r).fcmd = s.fcmd := rfl
@[simp] theorem State.respond_params (r : Response) : (s.respond r).params = s.params := rfl
@[simp] theorem State.respond_events (r : Response) : (s.respond r).events = s.events := rfl
@[simp] theorem State.respond_response (r : Response) : (s.respond r).response = some r := rfl
@[simp] theorem State.respond_draws (r : Response) : (s.respond r).draws = s.draws := rfl

/-! ### A dropped write -/

@[simp] theorem State.dropBusy_regs : (s.dropBusy).regs = s.regs := rfl
@[simp] theorem State.dropBusy_text : (s.dropBusy).text = s.text := rfl
@[simp] theorem State.dropBusy_pend : (s.dropBusy).pend = s.pend := rfl
@[simp] theorem State.dropBusy_fault : (s.dropBusy).fault = s.fault := rfl
@[simp] theorem State.dropBusy_ovr : (s.dropBusy).ovr = true := rfl
@[simp] theorem State.dropBusy_cause : (s.dropBusy).cause = s.cause := rfl
@[simp] theorem State.dropBusy_fcmd : (s.dropBusy).fcmd = s.fcmd := rfl
@[simp] theorem State.dropBusy_params : (s.dropBusy).params = s.params := rfl
@[simp] theorem State.dropBusy_events : (s.dropBusy).events = s.events := rfl
@[simp] theorem State.dropBusy_response : (s.dropBusy).response = some .done := rfl
@[simp] theorem State.dropBusy_draws : (s.dropBusy).draws = s.draws := rfl

/-! ### A read during BUSY -/

@[simp] theorem State.readAny_regs (n : Nat) : (s.readAny n).regs = s.regs := rfl
@[simp] theorem State.readAny_text (n : Nat) : (s.readAny n).text = s.text := rfl
@[simp] theorem State.readAny_pend (n : Nat) : (s.readAny n).pend = s.pend := rfl
@[simp] theorem State.readAny_fault (n : Nat) : (s.readAny n).fault = s.fault := rfl
@[simp] theorem State.readAny_ovr (n : Nat) : (s.readAny n).ovr = s.ovr := rfl
@[simp] theorem State.readAny_cause (n : Nat) : (s.readAny n).cause = s.cause := rfl
@[simp] theorem State.readAny_fcmd (n : Nat) : (s.readAny n).fcmd = s.fcmd := rfl
@[simp] theorem State.readAny_params (n : Nat) : (s.readAny n).params = s.params := rfl
@[simp] theorem State.readAny_events (n : Nat) : (s.readAny n).events = s.events := rfl
@[simp] theorem State.readAny_response (n : Nat) : (s.readAny n).response = some (.data (lowBytes (Config.freeRead s.draws) n)) := rfl
@[simp] theorem State.readAny_draws (n : Nat) : (s.readAny n).draws = s.draws + 1 := rfl

/-! ### The next event is taken -/

@[simp] theorem State.popEvent_regs : (s.popEvent).regs = s.regs := rfl
@[simp] theorem State.popEvent_text : (s.popEvent).text = s.text := rfl
@[simp] theorem State.popEvent_pend : (s.popEvent).pend = s.pend := rfl
@[simp] theorem State.popEvent_fault : (s.popEvent).fault = s.fault := rfl
@[simp] theorem State.popEvent_ovr : (s.popEvent).ovr = s.ovr := rfl
@[simp] theorem State.popEvent_cause : (s.popEvent).cause = s.cause := rfl
@[simp] theorem State.popEvent_fcmd : (s.popEvent).fcmd = s.fcmd := rfl
@[simp] theorem State.popEvent_params : (s.popEvent).params = s.params := rfl
@[simp] theorem State.popEvent_events : (s.popEvent).events = s.events.tail := rfl
@[simp] theorem State.popEvent_response : (s.popEvent).response = s.response := rfl
@[simp] theorem State.popEvent_draws : (s.popEvent).draws = s.draws := rfl

/-! ### A command is placed -/

@[simp] theorem State.withPending_regs (w : Cmd) : (s.withPending w).regs = s.regs := rfl
@[simp] theorem State.withPending_text (w : Cmd) : (s.withPending w).text = s.text := rfl
@[simp] theorem State.withPending_pend (w : Cmd) : (s.withPending w).pend = some w := rfl
@[simp] theorem State.withPending_fault (w : Cmd) : (s.withPending w).fault = s.fault := rfl
@[simp] theorem State.withPending_ovr (w : Cmd) : (s.withPending w).ovr = s.ovr := rfl
@[simp] theorem State.withPending_cause (w : Cmd) : (s.withPending w).cause = s.cause := rfl
@[simp] theorem State.withPending_fcmd (w : Cmd) : (s.withPending w).fcmd = s.fcmd := rfl
@[simp] theorem State.withPending_params (w : Cmd) : (s.withPending w).params = s.params := rfl
@[simp] theorem State.withPending_events (w : Cmd) : (s.withPending w).events = .core :: s.events := rfl
@[simp] theorem State.withPending_response (w : Cmd) : (s.withPending w).response = s.response := rfl
@[simp] theorem State.withPending_draws (w : Cmd) : (s.withPending w).draws = s.draws := rfl

/-! ### Reset -/

@[simp] theorem State.afterReset_regs : (s.afterReset).regs = Vector.replicate 16 0 := rfl
@[simp] theorem State.afterReset_text : (s.afterReset).text = [] := rfl
@[simp] theorem State.afterReset_pend : (s.afterReset).pend = none := rfl
@[simp] theorem State.afterReset_fault : (s.afterReset).fault = false := rfl
@[simp] theorem State.afterReset_ovr : (s.afterReset).ovr = false := rfl
@[simp] theorem State.afterReset_cause : (s.afterReset).cause = .none := rfl
@[simp] theorem State.afterReset_fcmd : (s.afterReset).fcmd = 0 := rfl
@[simp] theorem State.afterReset_params : (s.afterReset).params = s.params := rfl
@[simp] theorem State.afterReset_events : (s.afterReset).events = s.events := rfl
@[simp] theorem State.afterReset_response : (s.afterReset).response = none := rfl
@[simp] theorem State.afterReset_draws : (s.afterReset).draws = s.draws := rfl

/-! ### Registers after an update -/

@[simp] theorem State.reg_setReg_same (r : Reg) (v : U128) : (s.setReg r v).reg r = v := by
  simp [State.reg]

theorem State.reg_setReg_ne (q r : Reg) (v : U128) (h : q ≠ r) : (s.setReg r v).reg q = s.reg q := by
  have hv : r.val ≠ q.val := fun e => h (Fin.ext e.symm)
  simp [State.reg, hv]

@[simp] theorem State.reg_retire (q : Reg) : (s.retire).reg q = s.reg q := rfl
@[simp] theorem State.reg_raise (c : Cause) (w : Cmd) (q : Reg) : (s.raise c w).reg q = s.reg q := rfl
@[simp] theorem State.reg_respond (r : Response) (q : Reg) : (s.respond r).reg q = s.reg q := rfl
@[simp] theorem State.reg_dropBusy (q : Reg) : (s.dropBusy).reg q = s.reg q := rfl
@[simp] theorem State.reg_readAny (n : Nat) (q : Reg) : (s.readAny n).reg q = s.reg q := rfl
@[simp] theorem State.reg_popEvent (q : Reg) : (s.popEvent).reg q = s.reg q := rfl
@[simp] theorem State.reg_withPending (w : Cmd) (q : Reg) : (s.withPending w).reg q = s.reg q := rfl

theorem State.reg_afterReset (q : Reg) : s.afterReset.reg q = 0 := by
  simp [State.reg]

theorem State.busy_eq_false_iff : s.busy = false ↔ s.pend = none := by
  simp [State.busy]

theorem State.busy_eq_true_iff : s.busy = true ↔ ∃ w, s.pend = some w := by
  simp [State.busy, Option.isSome_iff_exists]

end Sys2Proof.Machine
end

