-- ==== Sys2Proof/Laws/Ops.lean ====
section
/-! SUPPORT. What each shared operation can do, said once: completing a command, taking a fault, dividing, fetching a
text, the core's move, one event. -/

namespace Sys2Proof.Machine

/-! ### Completing a command -/

/-- `finish` answers a next state, with the value written and the frame of a command. -/
theorem finish_spec (rd : Reg) (v : U128) (s : State) :
    ∃ t, finish rd v s = .next t ∧ t.reg rd = v ∧ OnlyWrites [rd] s t := by
  refine ⟨_, rfl, by simp, ?_⟩
  constructor <;> try (intros; rfl)
  intro r hr
  rw [State.reg_retire, State.reg_setReg_ne _ _ _ _ (by simpa using hr)]

/-- A command that is one `finish` completes and writes that value. -/
theorem writes_of_finish {i : Instr} {s : State} {rd : Reg} {v : U128} (h : exec i s = finish rd v s) :
    Writes i s rd v := by
  obtain ⟨t, ht, hv, hf⟩ := finish_spec rd v s
  exact ⟨t, h.trans ht, hv, hf⟩

/-- `finishTwo` writes the second value last (R351). -/
theorem finishTwo_spec (rd rd2 : Reg) (v v2 : U128) (s : State) :
    ∃ t, finishTwo rd rd2 v v2 s = .next t ∧ t.reg rd2 = v2 ∧ (rd ≠ rd2 → t.reg rd = v) ∧ OnlyWrites [rd, rd2] s t := by
  refine ⟨_, rfl, by simp, fun h => ?_, ?_⟩
  · rw [State.reg_retire, State.reg_setReg_ne _ _ _ _ h, State.reg_setReg_same]
  · constructor <;> try (intros; rfl)
    intro r hr
    simp only [List.mem_cons, List.not_mem_nil, or_false, not_or] at hr
    rw [State.reg_retire, State.reg_setReg_ne _ _ _ _ hr.2, State.reg_setReg_ne _ _ _ _ hr.1]

/-! ### Taking a fault -/

theorem raise_faultEntry (s : State) (c : Cause) (w : Cmd) : FaultEntry c w s (s.raise c w) := by
  constructor <;> first | rfl | (intros; rfl)

/-- A zero divisor takes the fault, any other divisor passes quotient and remainder on. -/
theorem divideThen_zero (i : Instr) (x : U128) (write : U128 → U128 → Result) (s : State) :
    divideThen i x zero128 write s = .next (s.raise .divByZero (encode i)) := by
  simp [divideThen]

theorem divideThen_nonzero (i : Instr) (x y : U128) (write : U128 → U128 → Result) (s : State) (h : y ≠ zero128) :
    divideThen i x y write s = write (divrem x y).1 (divrem x y).2 := by
  simp [divideThen, h]

/-! ### Fetching a text -/

@[simp] theorem fetchText_zero (m : Memory) (size a : Nat) : fetchText m size a 0 = .text [] := rfl

theorem fetchText_outOfRange (m : Memory) (size a n : Nat) (h : size ≤ a) :
    fetchText m size a (n + 1) = .outOfRange a := by
  simp [fetchText, h]

theorem fetchText_nul (m : Memory) (size a n : Nat) (h : a < size) (hb : m.read a = some 0) :
    fetchText m size a (n + 1) = .text [] := by
  simp [fetchText, hb, Nat.not_le.2 h]

theorem fetchText_byte (m : Memory) (size a n : Nat) (b : Byte) (h : a < size) (hb : m.read a = some b) (h0 : b ≠ 0) :
    fetchText m size a (n + 1) = (fetchText m size (a + 1) n).prepend b := by
  simp only [fetchText, hb, Nat.not_le.2 h, if_false]
  exact if_neg h0

theorem fetchText_unwritten (m : Memory) (size a n : Nat) (h : a < size) (hb : m.read a = none) :
    fetchText m size a (n + 1) = .unwritten a := by
  simp [fetchText, hb, Nat.not_le.2 h]

/-! ### What one command can do -/

/-- The three ends of a command: it writes its destinations and retires, it takes a fault with its own word, or it is
PARSE and met a text byte that was never written. -/
theorem exec_cases (i : Instr) (s : State) :
    (∃ rd v, destinations i = [rd] ∧ exec i s = finish rd v s) ∨
    (∃ rd rd2 v v2, destinations i = [rd, rd2] ∧ exec i s = finishTwo rd rd2 v v2 s) ∨
    (∃ c, c ≠ .none ∧ exec i s = .next (s.raise c (encode i))) ∨
    (∃ rd a l, i = .parse rd a l ∧ exec i s = .fault .unwrittenText) := by
  cases i
  case divrem q r a b =>
    by_cases h : s.reg b = zero128
    · exact .inr (.inr (.inl ⟨.divByZero, by simp, by simp [exec, execDivrem, divideThen, h]⟩))
    · exact .inr (.inl ⟨q, r, (divrem (s.reg a) (s.reg b)).1, (divrem (s.reg a) (s.reg b)).2, rfl,
        by simp [exec, execDivrem, divideThen, h]⟩)
  case div rd a b =>
    by_cases h : s.reg b = zero128
    · exact .inr (.inr (.inl ⟨.divByZero, by simp, by simp [exec, execDiv, divideThen, h]⟩))
    · exact .inl ⟨rd, (divrem (s.reg a) (s.reg b)).1, rfl, by simp [exec, execDiv, divideThen, h]⟩
  case mod rd a b =>
    by_cases h : s.reg b = zero128
    · exact .inr (.inr (.inl ⟨.divByZero, by simp, by simp [exec, execMod, divideThen, h]⟩))
    · exact .inl ⟨rd, (divrem (s.reg a) (s.reg b)).2, rfl, by simp [exec, execMod, divideThen, h]⟩
  case divS rd a b =>
    by_cases h : zext128 (s.scalar b) = zero128
    · exact .inr (.inr (.inl ⟨.divByZero, by simp, by simp [exec, execDivS, divideThen, h]⟩))
    · exact .inl ⟨rd, (divrem (s.reg a) (zext128 (s.scalar b))).1, rfl, by simp [exec, execDivS, divideThen, h]⟩
  case modS rd a b =>
    by_cases h : zext128 (s.scalar b) = zero128
    · exact .inr (.inr (.inl ⟨.divByZero, by simp, by simp [exec, execModS, divideThen, h]⟩))
    · exact .inl ⟨rd, (divrem (s.reg a) (zext128 (s.scalar b))).2, rfl, by simp [exec, execModS, divideThen, h]⟩
  case parse rd a l =>
    cases h : fetchText s.text s.params.textSize (s.scalar a).toNat (s.scalar l).toNat with
    | text t => exact .inl ⟨rd, parseText t, rfl, by simp [exec, execParse, h]⟩
    | outOfRange x => exact .inr (.inr (.inl ⟨.textRange, by simp, by simp [exec, execParse, h]⟩))
    | unwritten x => exact .inr (.inr (.inr ⟨rd, a, l, rfl, by simp [exec, execParse, h]⟩))
  all_goals exact .inl ⟨_, _, rfl, rfl⟩

/-! ### The core's move -/

theorem coreStep_idle (s : State) (h : s.pend = none) : coreStep s = .next s := by
  simp [coreStep, h]

theorem coreStep_command (s : State) (w : Cmd) (i : Instr) (h : s.pend = some w) (hd : decode w = .ok i) :
    coreStep s = exec i s := by
  simp [coreStep, h, hd]

theorem coreStep_illegal (s : State) (w : Cmd) (e : DecodeError) (h : s.pend = some w) (hd : decode w = .error e) :
    coreStep s = .next (s.raise .illegalCmd w) := by
  simp [coreStep, h, hd]

/-- Everything the core's move can be. -/
theorem coreStep_cases (s : State) :
    (s.pend = none ∧ coreStep s = .next s) ∨
    (∃ w i, s.pend = some w ∧ decode w = .ok i ∧ coreStep s = exec i s) ∨
    (∃ w e, s.pend = some w ∧ decode w = .error e ∧ coreStep s = .next (s.raise .illegalCmd w)) := by
  cases h : s.pend with
  | none => exact .inl ⟨rfl, coreStep_idle s h⟩
  | some w =>
    cases hd : decode w with
    | ok i => exact .inr (.inl ⟨w, i, rfl, hd, coreStep_command s w i h hd⟩)
    | error e => exact .inr (.inr ⟨w, e, rfl, hd, coreStep_illegal s w e h hd⟩)

/-! ### One step -/

theorem step_empty (s : State) (h : s.events = []) : step s = coreStep s := by
  simp [step, eventStep, h]

theorem step_core (s : State) (es : List Event) (h : s.events = .core :: es) : step s = coreStep s.popEvent := by
  simp [step, eventStep, h]

theorem step_host (s : State) (a : HostAccess) (es : List Event) (h : s.events = .host a :: es) :
    step s = hostAccess a s.popEvent := by
  simp [step, eventStep, h]

theorem step_reset (s : State) (es : List Event) (h : s.events = .reset :: es) :
    step s = .next s.popEvent.afterReset := by
  simp [step, eventStep, h]

theorem popEvent_withPending (s : State) (w : Cmd) : (s.withPending w).popEvent = { s with pend := some w } := rfl

end Sys2Proof.Machine
end

