-- ==== Sys2Proof/Laws/HostPort.lean ====
section
/-! SUPPORT. What one host access can do, said once. -/

namespace Sys2Proof.Machine

/-- TEXT_SIZE is a multiple of 16, so an aligned access that begins in the text memory ends in it. -/
theorem textSize_dvd (p : Params) : 16 ∣ p.textSize := by
  unfold Params.textSize Params.textLog2
  exact ⟨2 ^ p.sizeSel.val, by rw [Nat.pow_add]⟩

/-- A legal access to text lies in the text memory whole. -/
theorem hostTarget_text_within (p : Params) (off : Nat) (width : Width) (a : Nat)
    (h : hostTarget p off width = some (.text a)) : a = off - 0x1000 ∧ a + width.bytes ≤ p.textSize := by
  obtain ⟨k, hk⟩ := textSize_dvd p
  unfold hostTarget at h
  split at h
  · split at h
    · split at h <;> simp at h
    · simp at h
  · split at h
    · cases width <;> simp [registerTarget] at h
    · split at h
      · rename_i hr
        cases width <;> simp at h <;> simp only [Width.bytes] <;> omega
      · simp at h

/-- Everything one host access can be. -/
theorem hostAccess_cases (a : HostAccess) (s : State) :
    (∃ r, hostAccess a s = .next (s.respond r)) ∨
    (s.busy = true ∧ hostAccess a s = .next s.dropBusy) ∨
    (s.busy = true ∧ ∃ n, hostAccess a s = .next (s.readAny n)) ∨
    (s.busy = false ∧ s.fault = false ∧ ∃ w, hostAccess a s = .next { s with pend := some w, response := some .done }) ∨
    (s.busy = false ∧ ∃ r v, hostAccess a s = .next ((s.setReg r v).respond .done)) ∨
    (s.busy = false ∧ ∃ x d n, x + n ≤ s.params.textSize ∧
      hostAccess a s = .next (State.respond { s with text := s.text.writeBytes x d n } .done)) ∨
    (s.busy = false ∧ hostAccess a s = .fault .unwrittenText) := by
  cases a with
  | read off width =>
    simp only [hostAccess, hostRead]
    cases ht : hostTarget s.params off width with
    | none => exact .inl ⟨_, rfl⟩
    | some t =>
      cases t with
      | limb r b =>
        by_cases hb : s.busy = true
        · exact .inr (.inr (.inl ⟨hb, width.bytes, by simp [hb]⟩))
        · exact .inl ⟨.data (readLimb (s.reg r) b width.bytes), by simp [hb]⟩
      | text x =>
        by_cases hb : s.busy = true
        · exact .inr (.inr (.inl ⟨hb, width.bytes, by simp [hb]⟩))
        · cases hv : s.text.readBytes x width.bytes with
          | some v => exact .inl ⟨.data v, by simp [hb, hv]⟩
          | none => exact .inr (.inr (.inr (.inr (.inr (.inr ⟨by simpa using hb, by simp [hb, hv]⟩)))))
      | id => exact .inl ⟨_, rfl⟩
      | param => exact .inl ⟨_, rfl⟩
      | status => exact .inl ⟨_, rfl⟩
      | cmd => exact .inl ⟨_, rfl⟩
      | fcmd => exact .inl ⟨_, rfl⟩
  | write off width data =>
    simp only [hostAccess, hostWrite]
    cases ht : hostTarget s.params off width with
    | none => exact .inl ⟨_, rfl⟩
    | some t =>
      cases t with
      | limb r b =>
        by_cases hb : s.busy = true
        · exact .inr (.inl ⟨hb, by simp [hb]⟩)
        · exact .inr (.inr (.inr (.inr (.inl
            ⟨by simpa using hb, r, writeLimb (s.reg r) b width.bytes data, by simp [hb]⟩))))
      | text x =>
        by_cases hb : s.busy = true
        · exact .inr (.inl ⟨hb, by simp [hb]⟩)
        · exact .inr (.inr (.inr (.inr (.inr (.inl
            ⟨by simpa using hb, x, data, width.bytes, (hostTarget_text_within _ _ _ _ ht).2, by simp [hb]⟩)))))
      | cmd =>
        by_cases hb : s.busy = true
        · exact .inr (.inl ⟨hb, by simp [State.issue, hb]⟩)
        · by_cases hf : s.fault = true
          · exact .inl ⟨.done, by simp [State.issue, hb, hf]⟩
          · exact .inr (.inr (.inr (.inl
              ⟨by simpa using hb, by simpa using hf, data.setWidth 32, by simp [State.issue, hb, hf]⟩)))
      | id => exact .inl ⟨_, rfl⟩
      | param => exact .inl ⟨_, rfl⟩
      | status => exact .inl ⟨_, rfl⟩
      | fcmd => exact .inl ⟨_, rfl⟩

end Sys2Proof.Machine
end

