-- ==== Sys2Proof/Laws/Operands.lean ====
section
/-! SUPPORT. Limbs as numbers (00_scope.md R8, R9): every value of the commands can be pushed down to Nat with these. -/

namespace Sys2Proof.Machine

theorem lo_toNat (v : U128) : (lo v).toNat = v.toNat % 2 ^ 64 := by
  simp [lo, BitVec.extractLsb'_toNat]

theorem hi_toNat (v : U128) : (hi v).toNat = v.toNat / 2 ^ 64 := by
  have := v.isLt
  simp only [hi, BitVec.extractLsb'_toNat, Nat.shiftRight_eq_div_pow]
  omega

theorem cat_toNat (h l : U64) : (cat h l).toNat = h.toNat * 2 ^ 64 + l.toNat := by
  rw [cat, BitVec.toNat_append, ← Nat.shiftLeft_add_eq_or_of_lt l.isLt, Nat.shiftLeft_eq]

theorem zext128_toNat (u : U64) : (zext128 u).toNat = u.toNat := by
  have := u.isLt
  simp [zext128]
  omega

theorem zext128_eq_cat (u : U64) : zext128 u = cat 0 u := by
  apply BitVec.eq_of_toNat_eq
  simp [zext128_toNat, cat_toNat]

@[simp] theorem cat_hi_lo (v : U128) : cat (hi v) (lo v) = v := by
  apply BitVec.eq_of_toNat_eq
  rw [cat_toNat, hi_toNat, lo_toNat, Nat.div_add_mod']

@[simp] theorem hi_cat (h l : U64) : hi (cat h l) = h := by
  apply BitVec.eq_of_toNat_eq
  have := l.isLt
  rw [hi_toNat, cat_toNat]
  omega

@[simp] theorem lo_cat (h l : U64) : lo (cat h l) = l := by
  apply BitVec.eq_of_toNat_eq
  have := l.isLt
  rw [lo_toNat, cat_toNat]
  omega

/-- Values are equal when both limbs are. -/
theorem eq_of_limbs (a b : U128) (hh : hi a = hi b) (hl : lo a = lo b) : a = b := by
  rw [← cat_hi_lo a, ← cat_hi_lo b, hh, hl]

theorem zero128_eq : zero128 = 0 := by decide

theorem max128_toNat : max128.toNat = 2 ^ 128 - 1 := by decide

theorem bit64_toNat (c : Bool) : (bit64 c).toNat = c.toNat := by
  cases c <;> rfl

end Sys2Proof.Machine
end

