-- ==== Sys2Proof/Tests/Slice0.lean ====
section
/-! SUPPORT. Tests. Expected values come from spec/95_test_vectors.md (V and S numbers), from the encodings of
30_encoding.md R82 and R86, or from the rule named; one step each. -/

namespace Sys2Proof.Tests

open Sys2Proof Sys2Proof.Machine

/-! ### Helpers -/

/-- A block just after reset with R1 = x and R2 = y. -/
def start (x y : U128) : State := (State.reset.setReg 1 x).setReg 2 y

/-- Register `r` after one step that runs the word `w` (hexadecimal words as in spec/95_test_vectors.md). -/
def ran (w : Nat) (x y : U128) (r : Reg) : Option U128 := regAfter (step ((start x y).withFetchWord 32 w)) r

/-- STATUS and FCMD after an outcome. -/
def statusAfter (o : Result) : Option (Cmd × Cmd) :=
  match o with
  | .next t => some (t.statusWord, t.fcmd)
  | .fault _ => none
  | .refused _ => none

/-- The port's answer after an outcome. -/
def responseAfter (o : Result) : Option Response :=
  match o with
  | .next t => t.response
  | .fault _ => none
  | .refused _ => none

/-- A text at the addresses from `a`. -/
def textAt (a : Nat) : List Byte → Memory
  | [] => []
  | b :: rest => (a, b) :: textAt (a + 1) rest

/-- `start` with a text from address `a`. -/
def startText (x y : U128) (a : Nat) (t : List Byte) : State := { start x y with text := textAt a t }

/-- The test value A of spec/95_test_vectors.md. -/
def va : U128 := 0x0123456789ABCDEFFEDCBA9876543210

/-- The test value B. -/
def vb : U128 := 0xF0F0F0F0F0F0F0F00F0F0F0F0F0F0F0F

/-! ### Decoding: one word per row, written bit by bit from R82 and R86 with RD = 3, RS1 = 1, RS2 = 2, RD2 = 4 -/

theorem test_decode_create : decode 0b00000000_0000_0010_0001_0011_00000001 = .ok (.create 3 1 2) := by rfl
theorem test_decode_fromscalar : decode 0b00000000_0000_0000_0001_0011_00000010 = .ok (.fromscalar 3 1) := by rfl
theorem test_decode_high : decode 0b00000000_0000_0000_0001_0011_00000011 = .ok (.high 3 1) := by rfl
theorem test_decode_low : decode 0b00000000_0000_0000_0001_0011_00000100 = .ok (.low 3 1) := by rfl
theorem test_decode_czero : decode 0b00000000_0000_0000_0000_0011_00000101 = .ok (.czero 3) := by rfl
theorem test_decode_cmax : decode 0b00000000_0000_0000_0000_0011_00000110 = .ok (.cmax 3) := by rfl
theorem test_decode_shl : decode 0b00000000_0000_0010_0001_0011_00010000 = .ok (.shl 3 1 2) := by rfl
theorem test_decode_shr : decode 0b00000000_0000_0010_0001_0011_00010001 = .ok (.shr 3 1 2) := by rfl
theorem test_decode_orR : decode 0b00000000_0000_0010_0001_0011_00010010 = .ok (.orR 3 1 2) := by rfl
theorem test_decode_xorR : decode 0b00000000_0000_0010_0001_0011_00010011 = .ok (.xorR 3 1 2) := by rfl
theorem test_decode_andR : decode 0b00000000_0000_0010_0001_0011_00010100 = .ok (.andR 3 1 2) := by rfl
theorem test_decode_orS : decode 0b00000000_0000_0010_0001_0011_00010101 = .ok (.orS 3 1 2) := by rfl
theorem test_decode_xorS : decode 0b00000000_0000_0010_0001_0011_00010110 = .ok (.xorS 3 1 2) := by rfl
theorem test_decode_andS : decode 0b00000000_0000_0010_0001_0011_00010111 = .ok (.andS 3 1 2) := by rfl
theorem test_decode_cmpEq : decode 0b00000000_0000_0010_0001_0011_00100000 = .ok (.cmpEq 3 1 2) := by rfl
theorem test_decode_cmpLt : decode 0b00000000_0000_0010_0001_0011_00100001 = .ok (.cmpLt 3 1 2) := by rfl
theorem test_decode_cmpLe : decode 0b00000000_0000_0010_0001_0011_00100010 = .ok (.cmpLe 3 1 2) := by rfl
theorem test_decode_cmpGt : decode 0b00000000_0000_0010_0001_0011_00100011 = .ok (.cmpGt 3 1 2) := by rfl
theorem test_decode_cmpGe : decode 0b00000000_0000_0010_0001_0011_00100100 = .ok (.cmpGe 3 1 2) := by rfl
theorem test_decode_add : decode 0b00000000_0000_0010_0001_0011_00110000 = .ok (.add 3 1 2) := by rfl
theorem test_decode_sub : decode 0b00000000_0000_0010_0001_0011_00110001 = .ok (.sub 3 1 2) := by rfl
theorem test_decode_addS : decode 0b00000000_0000_0010_0001_0011_00110010 = .ok (.addS 3 1 2) := by rfl
theorem test_decode_subS : decode 0b00000000_0000_0010_0001_0011_00110011 = .ok (.subS 3 1 2) := by rfl
theorem test_decode_mul64 : decode 0b00000000_0000_0010_0001_0011_01000000 = .ok (.mul64 3 1 2) := by rfl
theorem test_decode_mul : decode 0b00000000_0000_0010_0001_0011_01000001 = .ok (.mul 3 1 2) := by rfl
theorem test_decode_mulS : decode 0b00000000_0000_0010_0001_0011_01000010 = .ok (.mulS 3 1 2) := by rfl
theorem test_decode_divrem : decode 0b00000000_0100_0010_0001_0011_01010000 = .ok (.divrem 3 4 1 2) := by rfl
theorem test_decode_div : decode 0b00000000_0000_0010_0001_0011_01010001 = .ok (.div 3 1 2) := by rfl
theorem test_decode_mod : decode 0b00000000_0000_0010_0001_0011_01010010 = .ok (.mod 3 1 2) := by rfl
theorem test_decode_divS : decode 0b00000000_0000_0010_0001_0011_01010011 = .ok (.divS 3 1 2) := by rfl
theorem test_decode_modS : decode 0b00000000_0000_0010_0001_0011_01010100 = .ok (.modS 3 1 2) := by rfl
theorem test_decode_inc : decode 0b00000000_0000_0000_0001_0011_01100000 = .ok (.inc 3 1) := by rfl
theorem test_decode_dec : decode 0b00000000_0000_0000_0001_0011_01100001 = .ok (.dec 3 1) := by rfl
theorem test_decode_parse : decode 0b00000000_0000_0010_0001_0011_01110000 = .ok (.parse 3 1 2) := by rfl

theorem test_decode_table_word : decodeTableWord 32 0x00F21350 = some (.divrem 3 15 1 2) := by decide -- V10.13

theorem test_encode_add : encode (.add 3 1 2) = 0x00021330 := by decide -- R93

theorem test_encode_divrem : encode (.divrem 3 4 1 2) = 0x00421350 := by decide -- R93

/-! ### Well-formedness: for each check a term it refuses, and a term it lets pass -/

theorem test_word_unlisted_opcode : Cmd.listedOpcode 0x00000007 = false := by decide -- V10.14

theorem test_word_zero_unlisted : Cmd.listedOpcode 0 = false := by decide -- V10.7

theorem test_word_res_not_zero : Cmd.unusedFieldsZero 0x01021330 = false := by decide -- V10.9

theorem test_word_rd2_not_zero : Cmd.unusedFieldsZero 0x00121330 = false := by decide -- V10.10

theorem test_word_rs1_not_zero : Cmd.unusedFieldsZero 0x00001705 = false := by decide -- V10.11

theorem test_word_rs2_not_zero : Cmd.unusedFieldsZero 0x00021360 = false := by decide -- V10.12

theorem test_word_well_formed : Cmd.wellFormed 0x00F21350 = true := by decide -- V10.13

theorem test_access_unmapped : (HostAccess.read 0x020 .w32).mapped Params.reference = false := by decide -- V11.10

theorem test_access_past_text : (HostAccess.read 0x2000 .w32).mapped Params.reference = false := by decide -- V11.11

theorem test_access_wrong_width : (HostAccess.read 0x100 .w8).widthAllowed Params.reference = false := by decide -- V11.9

theorem test_access_misaligned : (HostAccess.read 0x104 .w64).aligned = false := by decide -- V11.8

theorem test_access_well_formed : (HostAccess.write 0x1001 .w8 0).wellFormed Params.reference = true := by decide -- V11.7

theorem test_instr_well_formed : ∀ r : Reg, (Instr.divrem r r r r).wellFormed = true := by decide

theorem test_table_rows : opcodeTable.length = 34 := by decide

/-! ### Commands, one step each -/

theorem test_create_V1_1 : ran 0x00021301 0x000000000000DEAD0000000000001111 0x000000000000BEEF0000000000002222 3 = some 0x00000000000011110000000000002222 := by decide

theorem test_create_V1_8 : ran 0x00011101 va 0 1 = some 0xFEDCBA9876543210FEDCBA9876543210 := by decide

theorem test_fromscalar_V1_3 : ran 0x00001302 va 0 3 = some 0xFEDCBA9876543210 := by decide

theorem test_high_V1_4 : ran 0x00001303 va 0 3 = some 0x0123456789ABCDEF := by decide

theorem test_low_V1_5 : ran 0x00001304 va 0 3 = some 0xFEDCBA9876543210 := by decide

theorem test_czero_V1_6 : ran 0x00000205 va vb 2 = some 0 := by decide

theorem test_cmax_V1_7 : ran 0x00000306 va vb 3 = some 0xFFFFFFFFFFFFFFFFFFFFFFFFFFFFFFFF := by decide

theorem test_shl_V2_4 : ran 0x00021310 va 63 3 = some 0xFF6E5D4C3B2A19080000000000000000 := by decide

theorem test_shl_V2_11 : ran 0x00021310 va 0x00000000000000010000000000000004 3 = some 0x123456789ABCDEFFEDCBA98765432100 := by decide

theorem test_shr_V2_17 : ran 0x00021311 va 65 3 = some 0x0091A2B3C4D5E6F7 := by decide

theorem test_shr_V2_20 : ran 0x00021311 va 128 3 = some 0 := by decide

theorem test_or_V3_1 : ran 0x00021312 va vb 3 = some 0xF1F3F5F7F9FBFDFFFFDFBF9F7F5F3F1F := by decide

theorem test_xor_V3_2 : ran 0x00021313 va vb 3 = some 0xF1D3B597795B3D1FF1D3B597795B3D1F := by decide

theorem test_and_V3_3 : ran 0x00021314 va vb 3 = some 0x0020406080A0C0E00E0C0A0806040200 := by decide

theorem test_orS_V3_7 : ran 0x00021315 va 0xFFFFFFFFFFFFFFFFFFFFFFFFFFFFFFFF 3 = some 0x0123456789ABCDEFFFFFFFFFFFFFFFFF := by decide

theorem test_xorS_V3_8 : ran 0x00021316 va 0xFFFFFFFF 3 = some 0x0123456789ABCDEFFEDCBA9889ABCDEF := by decide

theorem test_andS_V3_11 : ran 0x00021317 va 0xFFFFFFFFFFFFFFFF0000000000000000 3 = some 0x0123456789ABCDEF0000000000000000 := by decide

theorem test_cmpEq_V4_1 : ran 0x00021320 0x10000000000000000 1 3 = some 0 := by decide

theorem test_cmpEq_V4_2 : ran 0x00021320 va va 3 = some 1 := by decide

theorem test_cmpLt_V4_3 : ran 0x00021321 0x0000000000000000FFFFFFFFFFFFFFFF 0x10000000000000000 3 = some 1 := by decide

theorem test_cmpLt_V4_4 : ran 0x00021321 0x10000000000000000 0x0000000000000000FFFFFFFFFFFFFFFF 3 = some 0 := by decide

theorem test_cmpLe_V4_7 : ran 0x00021322 va va 3 = some 1 := by decide

theorem test_cmpLe_V4_8 : ran 0x00021322 0xFFFFFFFFFFFFFFFFFFFFFFFFFFFFFFFF 0 3 = some 0 := by decide

theorem test_cmpGt_V4_9 : ran 0x00021323 0x10000000000000000 0x0000000000000000FFFFFFFFFFFFFFFF 3 = some 1 := by decide

theorem test_cmpGt_V4_10 : ran 0x00021323 va va 3 = some 0 := by decide

theorem test_cmpGe_V4_11 : ran 0x00021324 0 1 3 = some 0 := by decide

theorem test_cmpGe_V4_12 : ran 0x00021324 va va 3 = some 1 := by decide

theorem test_add_V5_1 : ran 0x00021330 va vb 3 = some 0xF21436587A9CBEE00DEBC9A78563411F := by decide

theorem test_add_V5_2 : ran 0x00021330 0x0000000000000000FFFFFFFFFFFFFFFF 1 3 = some 0x10000000000000000 := by decide

theorem test_sub_V5_5 : ran 0x00021331 va vb 3 = some 0x1032547698BADCFFEFCDAB8967452301 := by decide

theorem test_sub_V5_7 : ran 0x00021331 0x10000000000000000 1 3 = some 0x0000000000000000FFFFFFFFFFFFFFFF := by decide

theorem test_addS_V5_10 : ran 0x00021332 0xFFFFFFFFFFFFFFFFFFFFFFFFFFFFFFFF 5 3 = some 4 := by decide

theorem test_addS_V5_11 : ran 0x00021332 va 0x00000000000000070000000000000001 3 = some 0x0123456789ABCDEFFEDCBA9876543211 := by decide

theorem test_subS_V5_13 : ran 0x00021333 0 1 3 = some 0xFFFFFFFFFFFFFFFFFFFFFFFFFFFFFFFF := by decide

theorem test_subS_V5_14 : ran 0x00021333 0 0x0000000000000000FFFFFFFFFFFFFFFF 3 = some 0xFFFFFFFFFFFFFFFF0000000000000001 := by decide

theorem test_mul64_V6_2 : ran 0x00021340 0x0000000000000000FFFFFFFFFFFFFFFF 0x0000000000000000FFFFFFFFFFFFFFFF 3 = some 0xFFFFFFFFFFFFFFFE0000000000000001 := by decide

theorem test_mul64_V6_4 : ran 0x00021340 va vb 3 = some 0x0EFDECDBCAB9A89778899AABBCCDDEF0 := by decide

theorem test_mul_V6_5 : ran 0x00021341 va vb 3 = some 0x0FFEEDDCCBBAA99878899AABBCCDDEF0 := by decide

theorem test_mulS_V6_11 : ran 0x00021342 va 0x0000000000000000FFFFFFFFFFFFFFFF 3 = some 0xFDB97530ECA864200123456789ABCDF0 := by decide

theorem test_divrem_V7_12_quotient : ran 0x00421350 vb va 3 = some 0xD3 := by decide

theorem test_divrem_V7_28_same_destination : ran 0x00821850 vb va 8 = some 0x00DEBC9A78563420FF21436587A9CBDF := by decide

theorem test_div_V7_17 : ran 0x00021351 0x80000000000000000000000000000000 3 3 = some 0x2AAAAAAAAAAAAAAAAAAAAAAAAAAAAAAA := by decide

theorem test_mod_V7_20 : ran 0x00021352 vb va 3 = some 0x00DEBC9A78563420FF21436587A9CBDF := by decide

theorem test_divS_V7_23 : ran 0x00021353 0xFFFFFFFFFFFFFFFFFFFFFFFFFFFFFFFF 0x0000000000000000FFFFFFFFFFFFFFFF 3 = some 0x00000000000000010000000000000001 := by decide

theorem test_modS_V7_25 : ran 0x00021354 0xFFFFFFFFFFFFFFFFFFFFFFFFFFFFFFFF 0x8000000000000000 3 = some 0x7FFFFFFFFFFFFFFF := by decide

theorem test_inc_V9_2 : ran 0x00001360 0x0000000000000000FFFFFFFFFFFFFFFF 0 3 = some 0x10000000000000000 := by decide

theorem test_dec_V9_5 : ran 0x00001361 0x10000000000000000 0 3 = some 0x0000000000000000FFFFFFFFFFFFFFFF := by decide

theorem test_parse_V8_46 : regAfter (step ((startText 4094 2 4094 [0x31, 0x32]).withFetchWord 32 0x00021370)) 3
    = some 12 := by decide

theorem test_parse_V8_47 : statusAfter (step ((startText 4094 3 4094 [0x31, 0x32]).withFetchWord 32 0x00021370))
    = some (0x32, 0x00021370) := by decide

/-! ### Faults -/

theorem test_fault_divrem_V7_15 : statusAfter (step ((start va 0).withFetchWord 32 0x00421350))
    = some (0x22, 0x00421350) := by decide

theorem test_fault_divS_V7_24 : statusAfter (step ((start va 0x10000000000000000).withFetchWord 32 0x00021353))
    = some (0x22, 0x00021353) := by decide

theorem test_fault_illegal_V10_9 : statusAfter (step (State.reset.withFetchWord 32 0x01021330))
    = some (0x12, 0x01021330) := by decide

/-! ### Internal units of the divider -/

theorem test_rec2by1_V7_29 : rec2by1Steps 0x8000000000000000
    = ⟨0x7FD, 0x1FFFFB, 0x3FFFFFFFF, 0xFFFFFFFFFFFFFFFF, 0xFFFFFFFFFFFFFFFF⟩ := by decide +kernel

theorem test_rec2by1_V7_32 : rec2by1Steps 0xB504F333F9DE6484
    = ⟨0x5A6, 0x16A09B, 0x2D413CCCF, 0x6A09E667F3BCC909, 0x6A09E667F3BCC909⟩ := by decide +kernel

theorem test_rec3by2_V7_36 : rec3by2 (cat 0x8000000000000000 0xFFFFFFFFFFFFFFFF) = some 0xFFFFFFFFFFFFFFFC := by decide

theorem test_rec3by2_not_normalized : rec3by2 1 = none := by decide -- U8

theorem test_div2by1_V7_41 : (rec2by1 0xC000000000000000).bind
    (div2by1 (cat 0x1234 0x5678) 0xC000000000000000) = some (0x1845, 0x4000000000005678) := by decide

theorem test_div3by2_V7_45 : (rec3by2 (cat 0x8000000000000000 1)).bind
    (div3by2 ⟨0x7FFF, 0, 0⟩ (cat 0x8000000000000000 1)) = some (0xFFFD, cat 0x7FFFFFFFFFFFFFFF 0xFFFFFFFFFFFF0003) := by
  decide

theorem test_narrow_path_V7_14 : divremDatapath max128 0x8000000000000000
    = some (0x1FFFFFFFFFFFFFFFF, 0x7FFFFFFFFFFFFFFF) := by decide

theorem test_wide_path_V7_12 : divremDatapath vb va = some (0xD3, 0x00DEBC9A78563420FF21436587A9CBDF) := by decide

theorem test_one_bit_path_V7_4 : divremDatapath max128 0x80000000000000000000000000000001
    = some (1, 0x7FFFFFFFFFFFFFFFFFFFFFFFFFFFFFFE) := by decide

theorem test_early_exit_V7_13 : divremDatapath va vb = some (0, va) := by decide

theorem test_seed_S13 : recipEntry 0x80 = 0x553 := by decide

theorem test_clz_S15 : clz64 0 = 64 ∧ clz64 1 = 63 ∧ clz64 0x8000000000000000 = 0 := by decide

theorem test_addc_section_2_5 : addc 0xFFFFFFFFFFFFFFFF 0 true = (0, true) := by decide

theorem test_subb_section_2_5 : subb 0 0 true = (0xFFFFFFFFFFFFFFFF, true) := by decide

/-! ### The parse function -/

theorem test_parse_S5 : parseText [0x30, 0x78, 0x20, 0x20, 0x20, 0x30, 0x31, 0x32, 0x33] = 0 := by decide

theorem test_parse_V8_28_mixed_case : parseText [0x30, 0x78, 0x64, 0x65, 0x61, 0x64, 0x42, 0x45, 0x45, 0x46]
    = 0xDEADBEEF := by decide

theorem test_parse_V8_9 : parseText [0x30, 0x30, 0x78, 0x31, 0x32] = 0 := by decide

theorem test_parse_V8_33_octal_wraps : parseText ([0x30, 0x6F, 0x34] ++ List.replicate 42 0x30) = 0 := by decide +kernel

theorem test_parse_V8_15_decimal_overflow : parseText (List.replicate 39 0x39) = max128 := by decide

theorem test_parse_V8_17_count_first : parseText (0x31 :: List.replicate 39 0x78) = max128 := by decide

/-! ### The host window -/

theorem test_param_V11_2 : responseAfter (hostAccess (.read 0x004 .w32) State.reset) = some (.data 0xC10) := by decide

theorem test_limb_write_V11_4 : regAfter (hostAccess (.write 0x118 .w64 0x1111223344556677)
    (start 0x8899AABBCCDDEEFF 0)) 1 = some 0x11112233445566778899AABBCCDDEEFF := by decide

theorem test_limb_read_V11_5 : responseAfter (hostAccess (.read 0x118 .w32)
    (start 0x11112233445566778899AABBCCDDEEFF 0)) = some (.data 0x44556677) := by decide

theorem test_text_write_V11_6 : responseAfter (match hostAccess (.write 0x1000 .w64 0x3434373634343831) State.reset with
    | .next t => hostAccess (.read 0x1001 .w8) t
    | o => o) = some (.data 0x38) := by decide -- and V11.7

theorem test_status_write_ignored_V11_12 : statusAfter (hostAccess (.write 0x008 .w32 0xFFFFFFFF) State.reset)
    = some (0, 0) := by decide

theorem test_busy_cmd_write_V11_14 : statusAfter (hostAccess (.write 0x00C .w32 0x106)
    { State.reset with pend := some 0x106 }) = some (5, 0) := by decide

theorem test_busy_limb_write_V11_15 : regAfter (hostAccess (.write 0x110 .w64 9)
    { start 7 0 with pend := some 0x106 }) 1 = some 7 := by decide

theorem test_halted_cmd_write_V11_16 : statusAfter (hostAccess (.write 0x00C .w32 0x00021330)
    { start 7 0 with fault := true, cause := .divByZero, fcmd := 5 }) = some (0x22, 5) := by decide

/-! ### Assembly (R91 to R93) -/

theorem test_assemble_divrem : assembleLine ['d', 'i', 'v', 'r', 'e', 'm', ' ', 'r', '3', ',', ' ', 'r', '4', ',', 'r', '1', ',',
    ' ', 'r', '1', '5', ' ', ';', 'x'] = some (.divrem 3 4 1 15) := by decide

theorem test_assemble_mov : (assembleLine ['M', 'O', 'V', ' ', 'r', '6', ',', ' ', 'r', '2']).map encode = some 0x00022612 := by
  decide

theorem test_render_assembles : assembleLine (renderLine (.parse 5 0 10)) = some (.parse 5 0 10) := by decide

/-! ### Witnesses: concrete states and operands that meet the hypotheses of the statements -/

/-- A halted block: DIV by zero was its first fault. -/
def halted : State := { start 5 0 with fault := true, cause := .divByZero, fcmd := 0x00021451 }

/-- A block with a command in flight. -/
def inFlight : State := { start 5 3 with pend := some 0x00021330 }

theorem witness_EncodeOfDecode : decode 0x00021330 = .ok (.add 3 1 2) := by rfl

theorem witness_IllegalWords : ({ State.reset with pend := some 0 } : State).pend = some 0 ∧ Cmd.wellFormed 0 = false := by
  decide

theorem witness_StepRuns : decode 0x00021330 = .ok (.add 3 1 2) ∧ inFlight.pend = some 0x00021330 ∧ inFlight.events = [] ∧
    ({ inFlight with events := [.core, .reset] } : State).pend = some 0x00021330 ∧
    ({ inFlight with events := [.core, .reset] } : State).events = .core :: [.reset] :=
  ⟨rfl, rfl, rfl, rfl, rfl⟩

theorem witness_CoreMoveEndsTheCommand : inFlight.busy = true ∧ ∃ t, coreStep inFlight = .next t := ⟨rfl, _, rfl⟩

theorem witness_IdleCore : State.reset.pend = none ∧ State.reset.events = [] := by decide

theorem witness_CmdWrite_idle : State.reset.busy = false ∧ State.reset.fault = false := by decide

theorem witness_CmdWrite_busy : inFlight.busy = true := by decide

theorem witness_CmdWrite_halted : halted.busy = false ∧ halted.fault = true := by decide

theorem witness_ShiftLimbDatapath : (0 < 128) ∧ (63 < 128) ∧ (64 < 128) ∧ (127 < 128) := by decide

theorem witness_LeadingZeroCount : (1 : U64) ≠ 0 ∧ (0xFFFFFFFFFFFFFFFF : U64) ≠ 0 := by decide

theorem witness_SeedTable : 0 < 256 ∧ 255 < 256 ∧ normalized 0x8000000000000000 = true := by decide

theorem witness_OneLimbReciprocal : normalized 0x8000000000000000 = true ∧ normalized 0xFFFFFFFFFFFFFFFF = true := by decide

theorem witness_TwoLimbReciprocal : normalized (hi (cat 0x8000000000000000 0xFFFFFFFFFFFFFFFF)) = true ∧
    (0xFFFFFFFFFFFFFFFF : U64).toNat = rec2by1Contract (hi (cat 0x8000000000000000 0xFFFFFFFFFFFFFFFF)) := by decide

theorem witness_TwoByOneStep : normalized 0x8000000000000000 = true ∧
    (hi (cat 0x7FFFFFFFFFFFFFFF 0xFFFFFFFFFFFFFFFF)).toNat < (0x8000000000000000 : U64).toNat ∧
    (0xFFFFFFFFFFFFFFFF : U64).toNat = rec2by1Contract 0x8000000000000000 := by decide -- V7.39

theorem witness_ThreeByTwoStep : normalized (hi (cat 0x8000000000000000 0)) = true ∧
    (cat 0 0xFFFFFFFFFFFFFFFF).toNat < (cat 0x8000000000000000 0).toNat ∧
    (0xFFFFFFFFFFFFFFFF : U64).toNat = rec3by2Contract (cat 0x8000000000000000 0) := by decide -- V7.43

theorem witness_DividerDatapath : (1 : U128) ≠ 0 ∧ max128 ≠ 0 := by decide

theorem witness_DivisionWrites : (start 5 3).num 2 ≠ 0 ∧ (start 5 3).loNum 2 ≠ 0 ∧ (3 : Reg) ≠ 4 := by decide

/-- V7.15 and V7.24 as pending words: one state for each clause. -/
theorem witness_ZeroDivisor :
    (({ start 5 0 with pend := some 0x00421350 } : State).pend = some 0x00421350 ∧
      decode 0x00421350 = .ok (.divrem 3 4 1 2) ∧ ({ start 5 0 with pend := some 0x00421350 } : State).num 2 = 0) ∧
    (({ start 5 0x10000000000000000 with pend := some 0x00021353 } : State).pend = some 0x00021353 ∧
      decode 0x00021353 = .ok (.divS 3 1 2) ∧
      ({ start 5 0x10000000000000000 with pend := some 0x00021353 } : State).loNum 2 = 0) :=
  ⟨⟨rfl, rfl, by decide⟩, rfl, rfl, by decide⟩

theorem witness_DivisionRoundTrip : ((start 5 0xA0000000000000003).setReg 4 3).reg 4
      = cat 0 (lo (((start 5 0xA0000000000000003).setReg 4 3).reg 2)) ∧
    ((start 5 0xA0000000000000003).setReg 4 3).loNum 2 ≠ 0 := by decide

theorem witness_Prefixes : ∀ (p : Byte) (rest : List Byte), [(0x30 : Byte), 0x30] = 0x30 :: p :: rest →
    p ∉ [(0x78 : Byte), 0x58, 0x6F, 0x4F, 0x62, 0x42] := by
  intro p rest h
  obtain ⟨-, rfl, -⟩ : (0x30 : Byte) = 0x30 ∧ 0x30 = p ∧ [] = rest := by simpa using h
  decide

theorem witness_ParseWrites : fetchText (startText 0 5 0 [0x39, 0]).text 4096 ((startText 0 5 0 [0x39, 0]).loNum 1)
    ((startText 0 5 0 [0x39, 0]).loNum 2) = .text [0x39] := by decide

theorem witness_Fetched : fetchText (textAt 4094 [0x31, 0x32]) 4096 4094 3 = .outOfRange 4096 ∧
    fetchText (textAt 0 [0x31]) 4096 0 2 = .unwritten 1 := by decide

/-- A pending PARSE r3, r1, r2 of a text far outside the memory (V8.49). -/
def farText : State := { start 65536 1 with pend := some 0x00021370 }

/-- A pending PARSE r3, r1, r2 of a text whose third byte is the first one outside (V8.47). -/
def edgeText : State := { startText 4094 3 4094 [0x31, 0x32] with pend := some 0x00021370 }

theorem witness_TextOutside_first : farText.pend = some 0x00021370 ∧ decode 0x00021370 = .ok (.parse 3 1 2) ∧
    farText.loNum 1 ≤ 65536 ∧ 65536 < farText.loNum 1 + farText.loNum 2 ∧ farText.params.textSize ≤ 65536 ∧
    (∀ y, farText.loNum 1 ≤ y → y < 65536 → y < farText.params.textSize ∧
      ∃ b, farText.text.read y = some b ∧ b ≠ 0) := by
  refine ⟨rfl, rfl, by decide, by decide, by decide, fun y h1 h2 => ?_⟩
  have : farText.loNum 1 = 65536 := by decide
  omega

theorem witness_TextOutside_edge : edgeText.pend = some 0x00021370 ∧ decode 0x00021370 = .ok (.parse 3 1 2) ∧
    edgeText.loNum 1 ≤ 4096 ∧ 4096 < edgeText.loNum 1 + edgeText.loNum 2 ∧ edgeText.params.textSize ≤ 4096 ∧
    (∀ y, edgeText.loNum 1 ≤ y → y < 4096 → y < edgeText.params.textSize ∧
      ∃ b, edgeText.text.read y = some b ∧ b ≠ 0) := by
  refine ⟨rfl, rfl, by decide, by decide, by decide, fun y h1 h2 => ?_⟩
  have h : edgeText.loNum 1 = 4094 := by decide
  have hy : y = 4094 ∨ y = 4095 := by omega
  rcases hy with rfl | rfl
  · exact ⟨by decide, 0x31, by decide, by decide⟩
  · exact ⟨by decide, 0x32, by decide, by decide⟩

theorem witness_EmptyText : (start 9 0).loNum 2 = 0 ∧
    (startText 0 100 0 [0]).loNum 1 < (startText 0 100 0 [0]).params.textSize ∧
    (startText 0 100 0 [0]).text.read ((startText 0 100 0 [0]).loNum 1) = some 0 := by decide

theorem witness_DecimalText : (∀ d ∈ [4, 2], d < 10) ∧ (∀ d ∈ List.replicate 40 9, d < 10) := by decide

theorem witness_PowerOfTwoText : prefixBase 0x6F = some .oct ∧
    ∀ c ∈ [(0x31 : Byte), 0x37], (digit c .oct).isSome = true := by decide

theorem witness_Count : detectBase (0x31 :: List.replicate 39 0x78) = (.dec, 0x31 :: List.replicate 39 0x78) ∧
    39 < ((0x31 :: List.replicate 39 (0x78 : Byte)).dropWhile (· == 0x30)).length ∧
    detectBase [0x31, 0x78] = (.dec, [0x31, 0x78]) ∧
    ([(0x31 : Byte), 0x78].dropWhile (· == 0x30)).length ≤ 39 ∧ digit 0x78 .dec = none := by decide

/-- Exactly at the decimal limit: 39 bytes, the last one invalid; and the same text one digit longer, past the limit. -/
theorem witness_Count_edge :
    detectBase (List.replicate 38 0x39 ++ [0x78]) = (.dec, List.replicate 38 0x39 ++ [0x78]) ∧
    ((List.replicate 38 (0x39 : Byte) ++ [0x78]).dropWhile (· == 0x30)).length = maxDigits .dec ∧
    (∃ c ∈ List.replicate 38 (0x39 : Byte) ++ [0x78], digit c .dec = none) ∧
    detectBase (List.replicate 39 0x39 ++ [0x78]) = (.dec, List.replicate 39 0x39 ++ [0x78]) ∧
    maxDigits .dec < ((List.replicate 39 (0x39 : Byte) ++ [0x78]).dropWhile (· == 0x30)).length := by decide

/-- R277 and R276 at that limit. -/
theorem test_parse_decimal_limit : parseText (List.replicate 38 0x39 ++ [0x78]) = 0 ∧
    parseText (List.replicate 39 0x39 ++ [0x78]) = max128 := by decide +kernel

theorem witness_RegisterWindow : (start 5 3).busy = false ∧ halted.busy = false ∧ (3 < 4) := by decide

theorem witness_TextWindow : State.reset.busy = false ∧ (0xFF8 : Nat) < State.reset.params.textSize ∧
    (0x1000 + 0xFF8) % Width.w64.bytes = 0 ∧ (∀ k < Width.w32.bytes, ((textAt 0 [1, 2, 3, 4]).read (0 + k)).isSome = true) ∧
    (textAt 0 [1, 2, 3]).read (0 + 3) = none := by decide

theorem witness_BusErrors : (HostAccess.read 0x104 .w64).wellFormed State.reset.params = false ∧
    (HostAccess.read 0x108 .w64).wellFormed State.reset.params = true := by decide

theorem witness_BusyWindow : inFlight.busy = true ∧ dropsWhenBusy inFlight.params (.write 0x00C .w32 0) = true ∧
    dropsWhenBusy inFlight.params (.write 0x1F8 .w64 0) = true ∧
    dropsWhenBusy inFlight.params (.write 0x1FFF .w8 0) = true ∧
    (HostAccess.read 0x100 .w32).wellFormed inFlight.params = true ∧ inRegisters 0x100 = true ∧
    (HostAccess.read 0x1FFF .w8).wellFormed inFlight.params = true ∧ inText inFlight.params 0x1FFF = true := by decide

theorem witness_HostReads : ∃ t, hostAccess (.read 0x110 .w64) halted = .next t := ⟨_, rfl⟩

theorem witness_Invariant_inFlight : inFlight.Inv := ⟨by decide, by decide, by decide, by decide, by decide⟩

theorem witness_StepKeepsTheInvariant : ∃ t, step inFlight = .next t := ⟨_, rfl⟩

theorem witness_Reset : ({ inFlight with events := [.reset] } : State).events = .reset :: [] := by decide

theorem witness_FaultStays : halted.Inv ∧ (∀ es, halted.events ≠ .reset :: es) ∧ ∃ t, step halted = .next t :=
  ⟨⟨by decide, by decide, by decide, by decide, by decide⟩, by simp [halted, start, State.reset, State.resetWith],
    ⟨_, rfl⟩⟩

theorem witness_OvrStays : ({ inFlight with ovr := true } : State).ovr = true ∧
    ∃ t, step { inFlight with ovr := true } = .next t := ⟨rfl, _, rfl⟩

theorem witness_FirstFault : ∃ t, step { start 5 0 with pend := some 0x00021451 } = .next t ∧ t.fault = true :=
  ⟨_, rfl, rfl⟩

theorem witness_ConfigurationNeverChanges : ∃ t, step { inFlight with events := [.reset] } = .next t := ⟨_, rfl⟩

theorem witness_Commands_fault : ∃ t, exec (.div 3 1 2) (start 5 0) = .next t ∧ t.fault = true := ⟨_, rfl, rfl⟩

theorem witness_ParseStops : exec (.parse 3 1 2) (start 0 1) = .fault .unwrittenText := rfl

theorem witness_Commands : ∃ t, exec (.divrem 3 3 1 2) (start 5 3) = .next t := ⟨_, rfl⟩

theorem witness_ScalarOperands : (2 : Reg) ∉ wholeOperands (.shl 3 1 2) ∧
    lo (0x70000000000000004 : U128) = lo ((start va 4).reg 2) ∧ (3 : Reg) ≠ 2 := by decide

theorem witness_PendChanges : (∃ t, step inFlight = .next t ∧ t.pend ≠ inFlight.pend) ∧
    (∃ t, step { inFlight with events := [.reset] } = .next t ∧ t.pend ≠ inFlight.pend) ∧
    (∃ t, step { State.reset with events := [.host (.write 0x00C .w32 0x106)] } = .next t ∧ t.pend ≠ State.reset.pend) :=
  ⟨⟨_, rfl, by decide⟩, ⟨_, rfl, by decide⟩, ⟨_, rfl, by decide⟩⟩

theorem witness_HostDuty : ({ inFlight with events := [.host (.read 0x008 .w32)] } : State).dutyKept = true ∧
    inFlight.ovr = false ∧ ∃ t, step { inFlight with events := [.host (.read 0x008 .w32)] } = .next t :=
  ⟨by decide, rfl, _, rfl⟩

theorem witness_Pseudo : (start 5 max128).num 2 = 2 ^ 128 - 1 ∧ (start 5 0).num 2 = 0 := by decide

end Sys2Proof.Tests
end

section
/-! SUPPORT. What a command, the core's move, a host access and a step leave behind when they answer a next state: one
inversion lemma each, from which the statements about the state are read off. -/

namespace Sys2Proof.Machine

variable {s t : State}

/-! ### A command -/

theorem finish_next {rd : Reg} {v : U128} (h : finish rd v s = .next t) : OnlyWrites [rd] s t ∧ t.text = s.text := by
  obtain ⟨t', ht', -, hw⟩ := finish_spec rd v s
  cases h
  cases ht'
  exact ⟨hw, rfl⟩

theorem finishTwo_next {rd rd2 : Reg} {v v2 : U128} (h : finishTwo rd rd2 v v2 s = .next t) :
    OnlyWrites [rd, rd2] s t ∧ t.text = s.text := by
  obtain ⟨t', ht', -, -, hw⟩ := finishTwo_spec rd rd2 v v2 s
  cases h
  cases ht'
  exact ⟨hw, rfl⟩

/-- A command that answers a next state has completed within its frame, or has taken a fault with its own word. -/
theorem exec_next_cases {i : Instr} (h : exec i s = .next t) :
    (OnlyWrites (destinations i) s t ∧ t.text = s.text) ∨ ∃ c, c ≠ .none ∧ t = s.raise c (encode i) := by
  obtain ⟨rd, v, hd, he⟩ | ⟨rd, rd2, v, v2, hd, he⟩ | ⟨c, hc, he⟩ | ⟨_, _, _, -, he⟩ := exec_cases i s <;>
    rw [he] at h
  · exact .inl (hd ▸ finish_next h)
  · exact .inl (hd ▸ finishTwo_next h)
  · cases h
    exact .inr ⟨c, hc, rfl⟩
  · cases h

/-! ### The core's move -/

/-- The core's move that answers a next state has idled, completed the pending command, or taken a fault. -/
theorem coreStep_next_cases (h : coreStep s = .next t) :
    (s.pend = none ∧ t = s) ∨
    (s.busy = true ∧
      ((∃ dst, OnlyWrites dst s t ∧ t.text = s.text) ∨ ∃ c w, c ≠ .none ∧ t = s.raise c w)) := by
  obtain ⟨hp, he⟩ | ⟨w, i, hp, -, he⟩ | ⟨w, _, hp, -, he⟩ := coreStep_cases s <;> rw [he] at h
  · cases h
    exact .inl ⟨hp, rfl⟩
  · refine .inr ⟨State.busy_eq_true_iff s |>.2 ⟨w, hp⟩, ?_⟩
    obtain hw | ⟨c, hc, ht⟩ := exec_next_cases h
    · exact .inl ⟨_, hw⟩
    · exact .inr ⟨c, _, hc, ht⟩
  · cases h
    exact .inr ⟨State.busy_eq_true_iff s |>.2 ⟨w, hp⟩, .inr ⟨.illegalCmd, w, by decide, rfl⟩⟩

theorem coreStep_pend (h : coreStep s = .next t) : t.pend = none := by
  obtain ⟨hp, rfl⟩ | ⟨-, ⟨_, hw, -⟩ | ⟨_, _, -, rfl⟩⟩ := coreStep_next_cases h
  · exact hp
  · exact hw.pend
  · rfl

/-- A PEND that the core's move changes was not empty. -/
theorem busy_of_coreStep_pend_ne (h : coreStep s = .next t) (hp : t.pend ≠ s.pend) : s.busy = true := by
  obtain ⟨-, rfl⟩ | ⟨hb, -⟩ := coreStep_next_cases h
  · exact absurd rfl hp
  · exact hb

theorem coreStep_params (h : coreStep s = .next t) : t.params = s.params := by
  obtain ⟨-, rfl⟩ | ⟨-, ⟨_, hw, -⟩ | ⟨_, _, -, rfl⟩⟩ := coreStep_next_cases h
  · rfl
  · exact hw.params
  · rfl

/-! ### A host write to CMD -/

theorem issue_of_busy (w : Cmd) (hb : s.busy = true) : s.issue w = s.dropBusy := by simp [State.issue, hb]

theorem issue_of_halted (w : Cmd) (hb : s.busy = false) (hf : s.fault = true) : s.issue w = s.respond .done := by
  simp [State.issue, hb, hf]

theorem issue_of_idle (w : Cmd) (hb : s.busy = false) (hf : s.fault = false) :
    s.issue w = { s with pend := some w, response := some .done } := by
  simp [State.issue, hb, hf]

theorem issue_pend_of_ne {w : Cmd} (h : (s.issue w).pend ≠ s.pend) :
    s.busy = false ∧ s.fault = false ∧ (s.issue w).pend = some w := by
  cases hb : s.busy with
  | true => exact absurd (by rw [issue_of_busy w hb]; rfl) h
  | false =>
    cases hf : s.fault with
    | true => exact absurd (by rw [issue_of_halted w hb hf]; rfl) h
    | false => exact ⟨rfl, rfl, by rw [issue_of_idle w hb hf]⟩

theorem hostAccess_write_cmd (data : U64) (s : State) :
    hostAccess (.write 0x00C .w32 data) s = .next (s.issue (data.setWidth 32)) := rfl

/-- CMD is reached at one offset and one width only (20_memory.md R51, R52). -/
theorem hostTarget_eq_cmd {p : Params} {off : Nat} {width : Width} (h : hostTarget p off width = some .cmd) :
    off = 0x00C ∧ width = .w32 := by
  unfold hostTarget at h
  split at h
  · split at h
    · rename_i hw
      split at h
      case h_4 => exact ⟨rfl, hw⟩
      all_goals simp at h
    · simp at h
  · split at h
    · cases width <;> simp [registerTarget] at h
    · split at h
      · cases width <;> simp at h
      · simp at h

/-! ### A host access -/

theorem hostRead_pend {off : Nat} {width : Width} (h : hostRead off width s = .next t) : t.pend = s.pend := by
  unfold hostRead at h
  split at h
  case h_7 => split at h <;> cases h <;> rfl
  case h_8 =>
    split at h
    · cases h; rfl
    · split at h <;> cases h; rfl
  all_goals cases h; rfl

theorem hostWrite_pend_of_ne_cmd {off : Nat} {width : Width} {data : U64}
    (hc : hostTarget s.params off width ≠ some .cmd) (h : hostWrite off width data s = .next t) : t.pend = s.pend := by
  unfold hostWrite at h
  split at h
  case h_6 => exact absurd ‹_› hc
  case h_7 => split at h <;> cases h <;> rfl
  case h_8 => split at h <;> cases h <;> rfl
  all_goals cases h; rfl

/-- Only an accepted CMD write fills PEND (10_state.md R26, R34). -/
theorem hostAccess_pend_of_ne {a : HostAccess} (h : hostAccess a s = .next t) (hp : t.pend ≠ s.pend) :
    ∃ data, a = .write 0x00C .w32 data ∧ s.busy = false ∧ s.fault = false ∧ t.pend = some (data.setWidth 32) := by
  cases a with
  | read off width => exact absurd (hostRead_pend h) hp
  | write off width data =>
    by_cases hc : hostTarget s.params off width = some .cmd
    · obtain ⟨rfl, rfl⟩ := hostTarget_eq_cmd hc
      rw [hostAccess_write_cmd] at h
      cases h
      exact ⟨data, rfl, issue_pend_of_ne hp⟩
    · exact absurd (hostWrite_pend_of_ne_cmd hc h) hp

theorem hostAccess_params {a : HostAccess} (h : hostAccess a s = .next t) : t.params = s.params := by
  obtain ⟨_, e⟩ | ⟨-, e⟩ | ⟨-, _, e⟩ | ⟨-, -, _, e⟩ | ⟨-, _, _, e⟩ | ⟨-, _, _, _, -, e⟩ | ⟨-, e⟩ :=
    hostAccess_cases a s <;> rw [e] at h <;> cases h <;> rfl

/-! ### One step -/

/-- A step is the core's move, a host access or a reset, each after its event is taken from the schedule. -/
theorem step_next_cases (h : step s = .next t) :
    ((s.events = [] ∧ coreStep s = .next t) ∨ ∃ es, s.events = .core :: es ∧ coreStep s.popEvent = .next t) ∨
    (∃ a es, s.events = .host a :: es ∧ hostAccess a s.popEvent = .next t) ∨
    ∃ es, s.events = .reset :: es ∧ t = s.popEvent.afterReset := by
  match he : s.events with
  | [] => exact .inl (.inl ⟨rfl, step_empty s he ▸ h⟩)
  | .core :: es => exact .inl (.inr ⟨es, rfl, step_core s es he ▸ h⟩)
  | .host a :: es => exact .inr (.inl ⟨a, es, rfl, step_host s a es he ▸ h⟩)
  | .reset :: es =>
    rw [step_reset s es he] at h
    cases h
    exact .inr (.inr ⟨es, rfl, rfl⟩)

/-! ### The invariant, operation by operation -/

theorem State.Inv.resetWith (p : Params) : (State.resetWith p).Inv :=
  ⟨rfl, rfl, fun _ => rfl, fun _ => ⟨rfl, rfl⟩, nofun⟩

theorem State.Inv.afterReset (s : State) : s.afterReset.Inv :=
  have h := resetWith s.params
  ⟨h.textWf, h.textWithin, h.haltedEmpty, h.noRecord, h.hasCause⟩

/-- A state that shares with one of the invariant all that the invariant speaks of, and whose PEND is the same or empty. -/
theorem State.Inv.of_same_record (h : s.Inv) (text : t.text = s.text) (params : t.params = s.params)
    (fault : t.fault = s.fault) (cause : t.cause = s.cause) (fcmd : t.fcmd = s.fcmd)
    (pend : t.pend = s.pend ∨ t.pend = none) : t.Inv where
  textWf := text ▸ h.textWf
  textWithin := by rw [text, params]; exact h.textWithin
  haltedEmpty hf := pend.elim (fun e => e.trans (h.haltedEmpty (fault ▸ hf))) id
  noRecord hf := by rw [cause, fcmd]; exact h.noRecord (fault ▸ hf)
  hasCause hf := cause ▸ h.hasCause (fault ▸ hf)

theorem State.Inv.popEvent (h : s.Inv) : s.popEvent.Inv := h.of_same_record rfl rfl rfl rfl rfl (.inl rfl)

theorem State.Inv.raise (h : s.Inv) {c : Cause} (hc : c ≠ .none) (w : Cmd) : (s.raise c w).Inv :=
  ⟨h.textWf, h.textWithin, fun _ => rfl, nofun, fun _ => hc⟩

theorem State.Inv.issued (h : s.Inv) (hf : s.fault = false) (w : Cmd) (r : Option Response) :
    State.Inv { s with pend := some w, response := r } :=
  ⟨h.textWf, h.textWithin, fun hf' => absurd hf' (by simp [hf]), h.noRecord, h.hasCause⟩

theorem State.Inv.writeBytes (h : s.Inv) (x : Nat) (d : U64) (n : Nat) (hn : x + n ≤ s.params.textSize) :
    State.Inv { s with text := s.text.writeBytes x d n } :=
  ⟨Memory.wf_writeBytes _ _ _ _ h.textWf, Memory.within_writeBytes _ _ _ _ _ h.textWithin hn, h.haltedEmpty,
    h.noRecord, h.hasCause⟩

theorem State.Inv.coreStep (h : s.Inv) (hs : coreStep s = .next t) : t.Inv := by
  obtain ⟨-, rfl⟩ | ⟨-, ⟨_, hw, ht⟩ | ⟨c, w, hc, rfl⟩⟩ := coreStep_next_cases hs
  · exact h
  · exact h.of_same_record ht hw.params hw.fault hw.cause hw.fcmd (.inr hw.pend)
  · exact h.raise hc w

theorem State.Inv.hostAccess (h : s.Inv) {a : HostAccess} (hs : hostAccess a s = .next t) : t.Inv := by
  obtain ⟨_, e⟩ | ⟨-, e⟩ | ⟨-, _, e⟩ | ⟨-, hf, w, e⟩ | ⟨-, _, _, e⟩ | ⟨-, x, d, n, hn, e⟩ | ⟨-, e⟩ :=
    hostAccess_cases a s <;> rw [e] at hs <;> cases hs
  · exact h.of_same_record rfl rfl rfl rfl rfl (.inl rfl)
  · exact h.of_same_record rfl rfl rfl rfl rfl (.inl rfl)
  · exact h.of_same_record rfl rfl rfl rfl rfl (.inl rfl)
  · exact h.issued hf w _
  · exact h.of_same_record rfl rfl rfl rfl rfl (.inl rfl)
  · exact (h.writeBytes x d n hn).of_same_record rfl rfl rfl rfl rfl (.inl rfl)

/-! ### The control registers as numbers -/

/-- Bit fields side by side add up, each at its place. -/
theorem toNat_append_eq_add {m n : Nat} (x : BitVec m) (y : BitVec n) :
    (x ++ y).toNat = x.toNat * 2 ^ n + y.toNat := by
  rw [BitVec.toNat_append, ← Nat.shiftLeft_add_eq_or_of_lt y.isLt, Nat.shiftLeft_eq]

theorem textLog2_le (p : Params) : p.textLog2 ≤ 12 := by
  have := p.sizeSel.isLt
  unfold Params.textLog2
  omega

theorem paramWord_toNat (p : Params) : (paramWord p).toNat = p.textLog2 * 2 ^ 8 + 16 := by
  have := textLog2_le p
  simp only [paramWord, toNat_append_eq_add, BitVec.toNat_ofNat, regCount]
  omega

theorem statusWord_toNat (s : State) : s.statusWord.toNat =
    s.busy.toNat + 2 * s.fault.toNat + 4 * s.ovr.toNat + 16 * (causeCode s.cause).toNat := by
  simp only [State.statusWord, toNat_append_eq_add, BitVec.toNat_ofNat, BitVec.toNat_ofBool]
  omega

end Sys2Proof.Machine
end

section
/-! SUPPORT. The statements about the state (10_state.md), settled. -/

namespace Sys2Proof.Machine

/-- Settles O49: the invariant is kept by the core's move, by a host access and by reset, and taking an event does not
touch it. -/
theorem stepKeepsTheInvariant : Obligations.StepKeepsTheInvariant := by
  intro s t hi h
  obtain (⟨-, hc⟩ | ⟨_, -, hc⟩) | ⟨_, _, -, ha⟩ | ⟨_, -, rfl⟩ := step_next_cases h
  · exact hi.coreStep hc
  · exact hi.popEvent.coreStep hc
  · exact hi.popEvent.hostAccess ha
  · exact State.Inv.afterReset _

/-- Settles O55: a command completes within its frame, or takes a fault and leaves every register. -/
theorem commandsChangeOnlyTheirDestinations : Obligations.CommandsChangeOnlyTheirDestinations := by
  intro i s t h
  obtain ⟨hw, -⟩ | ⟨c, hc, rfl⟩ := exec_next_cases h
  · exact ⟨hw.regs, hw.text, hw.pend, hw.ovr, hw.params, hw.events, hw.response, hw.draws,
      .inl ⟨hw.fault, hw.cause, hw.fcmd⟩⟩
  · have hf := raise_faultEntry s c (encode i)
    exact ⟨fun r _ => hf.regs r, hf.text, hf.pend, hf.ovr, hf.params, hf.events, hf.response, hf.draws,
      .inr ⟨hf.fault, hc, hf.regs⟩⟩

/-- Settles O57, by the three kinds of step. -/
theorem pendChangesOnlyByIssueCompletionOrReset : Obligations.PendChangesOnlyByIssueCompletionOrReset := by
  intro s t h hp
  obtain (⟨he, hc⟩ | ⟨es, he, hc⟩) | ⟨a, es, he, ha⟩ | ⟨es, he, rfl⟩ := step_next_cases h
  · exact .inr (.inl ⟨.inl he, busy_of_coreStep_pend_ne hc hp, coreStep_pend hc⟩)
  · exact .inr (.inl ⟨.inr ⟨es, he⟩, busy_of_coreStep_pend_ne (s := s.popEvent) hc hp, coreStep_pend hc⟩)
  · obtain ⟨data, rfl, hb, hf, ht⟩ := hostAccess_pend_of_ne ha hp
    exact .inr (.inr ⟨data, es, he, hb, hf, ht⟩)
  · exact .inl ⟨es, he, rfl⟩

/-- Settles O60, by the three kinds of step. -/
theorem configurationNeverChanges : Obligations.ConfigurationNeverChanges := by
  intro s t h
  obtain (⟨-, hc⟩ | ⟨_, -, hc⟩) | ⟨_, _, -, ha⟩ | ⟨_, -, rfl⟩ := step_next_cases h
  · exact coreStep_params hc
  · exact (coreStep_params hc).trans s.popEvent_params
  · exact (hostAccess_params ha).trans s.popEvent_params
  · rfl

/-- Settles O7: the CMD write is `State.issue`, in its three cases. -/
theorem cmdWriteIssuesOrIsDropped : Obligations.CmdWriteIssuesOrIsDropped := by
  intro s data
  simp only [hostAccess_write_cmd]
  exact ⟨fun hb hf => congrArg _ (issue_of_idle _ hb hf), fun hb => congrArg _ (issue_of_busy _ hb),
    fun hb hf => congrArg _ (issue_of_halted _ hb hf), rfl⟩

/-- Settles O43: each register's word as the number R25 to R30 give it. -/
theorem controlRegistersReadAsSpecified : Obligations.ControlRegistersReadAsSpecified := by
  refine ⟨fun s => ⟨rfl, ?_, ?_, rfl⟩, rfl, rfl, rfl, rfl, fun p => ⟨Nat.le_add_right .., textLog2_le p, rfl⟩⟩
  · rw [← paramWord_toNat, BitVec.ofNat_toNat]
    rfl
  · rw [← statusWord_toNat, BitVec.ofNat_toNat]
    rfl

/-- Settles O50: `State.reset` is the state after reset of the reference block. -/
theorem resetMeetsTheInvariant : Obligations.ResetMeetsTheInvariant :=
  ⟨State.Inv.resetWith Params.reference, State.Inv.resetWith⟩

end Sys2Proof.Machine
end

section
/-! SUPPORT. Which target a host access reaches (20_memory.md R51, R52), region by region of the window, and that the
host port's map agrees with `HostAccess.wellFormed`. -/

namespace Sys2Proof.Machine

variable {p : Params} {off : Nat} {width : Width}

/-! ### The regions -/

theorem inRegisters_iff : inRegisters off = true ↔ 0x100 ≤ off ∧ off < 0x200 := by simp [inRegisters]

theorem inText_iff : inText p off = true ↔ 0x1000 ≤ off ∧ off < 0x1000 + p.textSize := by simp [inText]

/-- The control region lies below the others. -/
theorem other_regions_of_inControl (h : inControl off = true) : inRegisters off = false ∧ inText p off = false := by
  simp only [inControl, inRegisters, inText, decide_eq_true_eq, Bool.and_eq_false_iff, decide_eq_false_iff_not] at *
  omega

/-- The register window lies between the others. -/
theorem other_regions_of_inRegisters (h : inRegisters off = true) : inControl off = false ∧ inText p off = false := by
  simp only [inControl, inRegisters, inText, Bool.and_eq_true, decide_eq_true_eq, Bool.and_eq_false_iff,
    decide_eq_false_iff_not] at *
  omega

/-- The text window lies above the others. -/
theorem other_regions_of_inText (h : inText p off = true) : inControl off = false ∧ inRegisters off = false := by
  simp only [inControl, inRegisters, inText, Bool.and_eq_true, decide_eq_true_eq, Bool.and_eq_false_iff,
    decide_eq_false_iff_not] at *
  omega

/-! ### Legal accesses, region by region -/

/-- Whether a write is legal depends on neither its data nor its direction. -/
theorem wellFormed_write (data : U64) :
    (HostAccess.write off width data).wellFormed p = (HostAccess.read off width).wellFormed p := rfl

theorem wellFormed_inControl (h : inControl off = true) :
    (HostAccess.read off width).wellFormed p = (width == .w32 && off % width.bytes == 0) := by
  obtain ⟨hr, ht⟩ := other_regions_of_inControl (p := p) h
  simp [HostAccess.wellFormed, HostAccess.mapped, HostAccess.widthAllowed, HostAccess.aligned, HostAccess.off,
    HostAccess.width, h, hr, ht]

theorem wellFormed_inRegisters (h : inRegisters off = true) :
    (HostAccess.read off width).wellFormed p = ((width == .w32 || width == .w64) && off % width.bytes == 0) := by
  obtain ⟨hc, ht⟩ := other_regions_of_inRegisters (p := p) h
  simp [HostAccess.wellFormed, HostAccess.mapped, HostAccess.widthAllowed, HostAccess.aligned, HostAccess.off,
    HostAccess.width, h, hc, ht]

theorem wellFormed_inText (h : inText p off = true) :
    (HostAccess.read off width).wellFormed p =
      ((width == .w8 || width == .w32 || width == .w64) && off % width.bytes == 0) := by
  obtain ⟨hc, hr⟩ := other_regions_of_inText h
  simp [HostAccess.wellFormed, HostAccess.mapped, HostAccess.widthAllowed, HostAccess.aligned, HostAccess.off,
    HostAccess.width, h, hc, hr]

theorem wellFormed_unmapped (hc : inControl off = false) (hr : inRegisters off = false) (ht : inText p off = false) :
    (HostAccess.read off width).wellFormed p = false := by
  simp [HostAccess.wellFormed, HostAccess.mapped, HostAccess.off, hc, hr, ht]

/-! ### What an access reaches, region by region -/

/-- The five control registers take every legal access to their region. -/
theorem hostTarget_isSome_inControl (h : inControl off = true) :
    (hostTarget p off width).isSome = (HostAccess.read off width).wellFormed p := by
  rw [wellFormed_inControl h]
  have ho : off < 0x14 := of_decide_eq_true h
  by_cases hw : width = .w32
  · subst hw
    interval_cases off <;> rfl
  · simp [hostTarget, ho, hw]

theorem hostTarget_inRegisters (h : inRegisters off = true) :
    hostTarget p off width = if (HostAccess.read off width).wellFormed p then some (registerTarget off) else none := by
  rw [wellFormed_inRegisters h]
  have ho := inRegisters_iff.1 h
  have hc : ¬off < 0x14 := by omega
  cases width <;> simp [hostTarget, hc, ho, Width.bytes]

theorem hostTarget_inText (h : inText p off = true) :
    hostTarget p off width =
      if (HostAccess.read off width).wellFormed p then some (.text (off - 0x1000)) else none := by
  rw [wellFormed_inText h]
  have ho := inText_iff.1 h
  have hc : ¬off < 0x14 := by omega
  have hr : ¬(0x100 ≤ off ∧ off < 0x200) := by omega
  cases width <;> simp [hostTarget, hc, hr, ho, Width.bytes, Nat.mod_one]

theorem hostTarget_unmapped (hc : inControl off = false) (hr : inRegisters off = false) (ht : inText p off = false) :
    hostTarget p off width = none := by
  have hc' : ¬off < 0x14 := of_decide_eq_false hc
  have hr' : ¬(0x100 ≤ off ∧ off < 0x200) := by rw [← inRegisters_iff, hr]; decide
  have ht' : ¬(0x1000 ≤ off ∧ off < 0x1000 + p.textSize) := by rw [← inText_iff, ht]; decide
  simp only [hostTarget, if_neg hc', if_neg hr', if_neg ht']

/-- The host port's map and the separately written check agree: an access reaches something exactly when it is legal. -/
theorem hostTarget_isSome (p : Params) (off : Nat) (width : Width) :
    (hostTarget p off width).isSome = (HostAccess.read off width).wellFormed p := by
  cases hc : inControl off with
  | true => exact hostTarget_isSome_inControl hc
  | false =>
    cases hr : inRegisters off with
    | true =>
      rw [hostTarget_inRegisters hr]
      cases (HostAccess.read off width).wellFormed p <;> rfl
    | false =>
      cases ht : inText p off with
      | true =>
        rw [hostTarget_inText ht]
        cases (HostAccess.read off width).wellFormed p <;> rfl
      | false => rw [hostTarget_unmapped hc hr ht, wellFormed_unmapped hc hr ht]; rfl

/-- Byte `b` of register `r` is at 0x100 + 16 r + b (R51, R53). -/
theorem hostTarget_limb (p : Params) (r : Reg) {b : Nat} (hoff : off = 0x100 + 16 * r.val + b) (hb : b < 16)
    (hw : width = .w32 ∨ width = .w64) (ha : b % width.bytes = 0) :
    hostTarget p off width = some (.limb r b) := by
  have hr16 : r.val < 16 := r.isLt
  have hr : inRegisters off = true := inRegisters_iff.2 (by omega)
  have hal : off % width.bytes = 0 := by
    rcases hw with rfl | rfl <;> simp only [Width.bytes] at * <;> omega
  have hl : (HostAccess.read off width).wellFormed p = true := by
    rw [wellFormed_inRegisters hr, hal]
    simpa using hw
  have hreg : Fin.ofNat 16 ((off - 0x100) / 16) = r := Fin.ext (by simp; omega)
  have hbyte : (off - 0x100) % 16 = b := by omega
  rw [hostTarget_inRegisters hr, if_pos hl, registerTarget, hreg, hbyte]

/-- Text takes accesses of at most 8 bytes (R52). -/
theorem width_bytes_le (hw : width ∈ [Width.w8, .w32, .w64]) : width.bytes ≤ 8 := by
  revert hw
  cases width <;> decide

theorem hostTarget_text {a : Nat} (ha : a < p.textSize) (hw : width ∈ [Width.w8, .w32, .w64])
    (hal : (0x1000 + a) % width.bytes = 0) : hostTarget p (0x1000 + a) width = some (.text a) := by
  have ht : inText p (0x1000 + a) = true := inText_iff.2 (by omega)
  have hl : (HostAccess.read (0x1000 + a) width).wellFormed p = true := by
    rw [wellFormed_inText ht, hal]
    simpa [or_assoc] using hw
  rw [hostTarget_inText ht, if_pos hl, Nat.add_sub_cancel_left]

/-- A legal access to the register window or to text reaches bytes of a register or of text. -/
theorem hostTarget_window (h : (HostAccess.read off width).wellFormed p = true)
    (hr : (inRegisters off || inText p off) = true) :
    (∃ r b, hostTarget p off width = some (.limb r b)) ∨ ∃ a, hostTarget p off width = some (.text a) := by
  rcases Bool.or_eq_true_iff.1 hr with hr | ht
  · exact .inl ⟨_, _, by rw [hostTarget_inRegisters hr, if_pos h, registerTarget]⟩
  · exact .inr ⟨_, by rw [hostTarget_inText ht, if_pos h]⟩

/-- A write that R65 drops reaches CMD, a register limb or text. -/
theorem hostTarget_of_dropsWhenBusy {data : U64} (h : dropsWhenBusy p (.write off width data) = true) :
    hostTarget p off width = some .cmd ∨ (∃ r b, hostTarget p off width = some (.limb r b)) ∨
      ∃ a, hostTarget p off width = some (.text a) := by
  simp only [dropsWhenBusy, wellFormed_write, Bool.or_assoc, Bool.and_eq_true] at h
  obtain ⟨hl, hr⟩ := h
  rcases Bool.or_eq_true_iff.1 hr with hc | hr
  · obtain rfl : off = 0x00C := by simpa using hc
    have hw : width = .w32 := by
      rw [wellFormed_inControl rfl, Bool.and_eq_true] at hl
      exact eq_of_beq hl.1
    exact .inl (hw ▸ rfl)
  · exact .inr (hostTarget_window hl hr)

end Sys2Proof.Machine
end

section
/-! SUPPORT. What the host port answers for each kind of target, and what a read leaves behind. -/

namespace Sys2Proof.Machine

variable {s t : State} {off : Nat} {width : Width} {data : U64}

/-! ### Accesses while BUSY is 0 -/

theorem hostRead_limb_of_idle {r : Reg} {b : Nat} (hb : s.busy = false)
    (ht : hostTarget s.params off width = some (.limb r b)) :
    hostRead off width s = .next (s.respond (.data (readLimb (s.reg r) b width.bytes))) := by
  simp [hostRead, ht, hb]

theorem hostWrite_limb_of_idle {r : Reg} {b : Nat} (hb : s.busy = false)
    (ht : hostTarget s.params off width = some (.limb r b)) :
    hostWrite off width data s
      = .next ((s.setReg r (writeLimb (s.reg r) b width.bytes data)).respond .done) := by
  simp [hostWrite, ht, hb]

theorem hostRead_text_of_written {a : Nat} {v : U64} (hb : s.busy = false)
    (ht : hostTarget s.params off width = some (.text a)) (hv : s.text.readBytes a width.bytes = some v) :
    hostRead off width s = .next (s.respond (.data v)) := by
  simp [hostRead, ht, hb, hv]

theorem hostRead_text_of_unwritten {a : Nat} (hb : s.busy = false)
    (ht : hostTarget s.params off width = some (.text a)) (hv : s.text.readBytes a width.bytes = none) :
    hostRead off width s = .fault .unwrittenText := by
  simp [hostRead, ht, hb, hv]

theorem hostWrite_text_of_idle {a : Nat} (hb : s.busy = false)
    (ht : hostTarget s.params off width = some (.text a)) :
    hostWrite off width data s
      = .next (State.respond { s with text := s.text.writeBytes a data width.bytes } .done) := by
  simp [hostWrite, ht, hb]

/-! ### Accesses while BUSY is 1 -/

theorem hostRead_of_busy (hb : s.busy = true)
    (ht : (∃ r b, hostTarget s.params off width = some (.limb r b)) ∨
      ∃ a, hostTarget s.params off width = some (.text a)) :
    hostRead off width s = .next (s.readAny width.bytes) := by
  obtain ⟨r, b, ht⟩ | ⟨a, ht⟩ := ht <;> simp [hostRead, ht, hb]

theorem hostWrite_of_busy (hb : s.busy = true)
    (ht : hostTarget s.params off width = some .cmd ∨ (∃ r b, hostTarget s.params off width = some (.limb r b)) ∨
      ∃ a, hostTarget s.params off width = some (.text a)) :
    hostWrite off width data s = .next s.dropBusy := by
  obtain ht | ⟨r, b, ht⟩ | ⟨a, ht⟩ := ht <;> simp [hostWrite, ht, hb, issue_of_busy]

/-! ### Reads -/

/-- A host read that completes changes nothing but the port's answer and, during BUSY, the draw counter; it answers data
unless it reaches nothing. -/
theorem hostRead_next_cases (h : hostRead off width s = .next t) :
    (hostTarget s.params off width = none ∧ t = s.respond .busError) ∨
    (∃ v, t = s.respond (.data v)) ∨ ∃ n, t = s.readAny n := by
  unfold hostRead at h
  split at h
  case h_1 ht =>
    cases h
    exact .inl ⟨ht, rfl⟩
  case h_7 =>
    split at h <;> cases h
    · exact .inr (.inr ⟨_, rfl⟩)
    · exact .inr (.inl ⟨_, rfl⟩)
  case h_8 =>
    split at h
    · cases h
      exact .inr (.inr ⟨_, rfl⟩)
    · split at h <;> cases h
      exact .inr (.inl ⟨_, rfl⟩)
  all_goals
    cases h
    exact .inr (.inl ⟨_, rfl⟩)

theorem respond_blockUnchanged (s : State) (r : Response) : BlockUnchanged s (s.respond r) :=
  ⟨fun _ => rfl, fun _ => rfl, rfl, rfl, rfl, rfl, rfl, rfl, rfl⟩

theorem readAny_blockUnchanged (s : State) (n : Nat) : BlockUnchanged s (s.readAny n) :=
  ⟨fun _ => rfl, fun _ => rfl, rfl, rfl, rfl, rfl, rfl, rfl, rfl⟩

/-! ### Bus errors -/

theorem hostRead_busError (h : hostTarget s.params off width = none) :
    hostRead off width s = .next (s.respond .busError) := by
  simp [hostRead, h]

theorem hostWrite_busError (h : hostTarget s.params off width = none) :
    hostWrite off width data s = .next (s.respond .busError) := by
  simp [hostWrite, h]

theorem issue_response (s : State) (w : Cmd) : (s.issue w).response = some .done := by
  unfold State.issue
  split
  · rfl
  · split <;> rfl

/-- A write that reaches something answers `done`. -/
theorem hostWrite_response_of_target (ht : hostTarget s.params off width ≠ none)
    (h : hostWrite off width data s = .next t) : t.response = some .done := by
  unfold hostWrite at h
  split at h
  case h_1 => exact absurd ‹_› ht
  case h_6 =>
    cases h
    exact issue_response ..
  case h_7 => split at h <;> cases h <;> rfl
  case h_8 => split at h <;> cases h <;> rfl
  all_goals
    cases h
    rfl

/-- The port answers a bus error, with nothing else changed, exactly to an access that reaches nothing. -/
theorem hostAccess_eq_busError_iff (a : HostAccess) (s : State) :
    hostAccess a s = .next (s.respond .busError) ↔ hostTarget s.params a.off a.width = none := by
  cases a with
  | read off width =>
    refine ⟨fun h => ?_, hostRead_busError⟩
    obtain ⟨ht, -⟩ | ⟨v, hv⟩ | ⟨n, hv⟩ := hostRead_next_cases h
    · exact ht
    · cases congrArg State.response hv
    · cases congrArg State.response hv
  | write off width data =>
    refine ⟨fun h => by_contra fun ht => ?_, hostWrite_busError⟩
    cases hostWrite_response_of_target ht h

end Sys2Proof.Machine
end

section
/-! SUPPORT. The bits of a register limb and of a run of text bytes (20_memory.md R53). -/

namespace Sys2Proof.Machine

/-! ### Parts of a register -/

theorem getLsbD_lowBytes (v : U64) {n : Nat} (hn : n ≤ 8) (i : Nat) :
    (lowBytes v n).getLsbD i = (decide (i < 8 * n) && v.getLsbD i) := by
  simp only [lowBytes, BitVec.getLsbD_and, BitVec.getLsbD_ushiftRight, BitVec.getLsbD_allOnes]
  by_cases h : i < 8 * n
  · have : 64 - 8 * n + i < 64 := by omega
    simp [h, this]
  · have : ¬64 - 8 * n + i < 64 := by omega
    simp [h, this]

theorem lowBytes_eight (v : U64) : lowBytes v 8 = v := BitVec.and_allOnes

theorem lowBytes_toNat (v : U64) {n : Nat} (hn : n ≤ 8) : (lowBytes v n).toNat = v.toNat % 2 ^ (8 * n) := by
  apply Nat.eq_of_testBit_eq
  intro i
  rw [BitVec.testBit_toNat, getLsbD_lowBytes v hn, Nat.testBit_mod_two_pow, BitVec.testBit_toNat]

theorem readLimb_eq_ofNat (v : U128) (b : Nat) {n : Nat} (hn : n ≤ 8) :
    readLimb v b n = BitVec.ofNat 64 (v.toNat / 2 ^ (8 * b) % 2 ^ (8 * n)) := by
  have h : (readLimb v b n).toNat = v.toNat / 2 ^ (8 * b) % 2 ^ (8 * n) := by
    rw [readLimb, lowBytes_toNat _ hn, BitVec.toNat_setWidth, BitVec.toNat_ushiftRight, Nat.shiftRight_eq_div_pow,
      Nat.mod_mod_of_dvd _ (Nat.pow_dvd_pow 2 (by omega))]
  rw [← h, BitVec.ofNat_toNat, BitVec.setWidth_eq]

theorem readLimb_low (v : U128) : readLimb v 0 8 = lo v := by
  rw [readLimb, lowBytes_eight]
  exact BitVec.eq_of_getLsbD_eq fun i hlt => by simp [lo, hlt]

theorem readLimb_high (v : U128) : readLimb v 8 8 = hi v := by
  rw [readLimb, lowBytes_eight]
  exact BitVec.eq_of_getLsbD_eq fun i hlt => by simp [hi, hlt]

/-- A write to bytes of a register replaces exactly their bits (R57). -/
theorem getLsbD_writeLimb (v : U128) (b : Nat) {n : Nat} (hn : n ≤ 8) (data : U64) {i : Nat} (h128 : i < 128) :
    (writeLimb v b n data).getLsbD i
      = if 8 * b ≤ i ∧ i < 8 * b + 8 * n then data.getLsbD (i - 8 * b) else v.getLsbD i := by
  simp only [writeLimb, zext128, BitVec.getLsbD_or, BitVec.getLsbD_and, BitVec.getLsbD_not, BitVec.getLsbD_shiftLeft,
    BitVec.getLsbD_setWidth, getLsbD_lowBytes _ hn, BitVec.getLsbD_allOnes]
  by_cases h1 : i < 8 * b
  · have : ¬8 * b ≤ i := by omega
    simp [h128, h1, this]
  · by_cases h2 : i - 8 * b < 8 * n
    · have h3 : 8 * b ≤ i ∧ i < 8 * b + 8 * n := by omega
      have h4 : i - 8 * b < 64 ∧ i - 8 * b < 128 := by omega
      simp [h128, h1, h2, h3, h4]
    · have h3 : ¬i < 8 * b + 8 * n := by omega
      simp [h128, h1, h2, h3]

theorem getLsbD_cat (h l : U64) (i : Nat) :
    (cat h l).getLsbD i = if i < 64 then l.getLsbD i else h.getLsbD (i - 64) := by
  rw [cat, BitVec.getLsbD_append]

theorem writeLimb_low (v : U128) (data : U64) : writeLimb v 0 8 data = cat (hi v) data := by
  apply BitVec.eq_of_getLsbD_eq
  intro i h
  rw [getLsbD_writeLimb v 0 le_rfl data h, getLsbD_cat]
  by_cases h64 : i < 64
  · simp [h64]
  · have : i - 64 < 64 ∧ 64 + (i - 64) = i := by omega
    simp [h64, hi, this]

theorem writeLimb_high (v : U128) (data : U64) : writeLimb v 8 8 data = cat data (lo v) := by
  apply BitVec.eq_of_getLsbD_eq
  intro i h
  rw [getLsbD_writeLimb v 8 le_rfl data h, getLsbD_cat]
  by_cases h64 : i < 64
  · have : ¬64 ≤ i := by omega
    simp [h64, this, lo]
  · have : 64 ≤ i := by omega
    simp [h64, this, h]

/-! ### Several text bytes as one number -/

theorem Memory.readBytes_succ_eq_some {m : Memory} {a n : Nat} {v : U64} (h : m.readBytes a (n + 1) = some v) :
    ∃ low b, m.readBytes a n = some low ∧ m.read (a + n) = some b ∧ v = low ||| b.setWidth 64 <<< (8 * n) := by
  rw [Memory.readBytes] at h
  split at h
  · exact ⟨_, _, ‹_›, ‹_›, (Option.some.inj h).symm⟩
  · cases h

theorem Memory.readBytes_lt {m : Memory} {a n : Nat} {v : U64} (hn : n ≤ 8) (h : m.readBytes a n = some v) :
    v.toNat < 2 ^ (8 * n) := by
  induction n generalizing v with
  | zero => cases h; decide
  | succ n ih =>
    obtain ⟨low, b, hl, -, rfl⟩ := Memory.readBytes_succ_eq_some h
    have hb : (b.setWidth 64 <<< (8 * n)).toNat < 2 ^ (8 * (n + 1)) := by
      rw [BitVec.toNat_shiftLeft, BitVec.toNat_setWidth, Nat.shiftLeft_eq, Nat.mul_succ, Nat.pow_add, Nat.mul_comm]
      refine (Nat.mod_le ..).trans_lt (Nat.mul_lt_mul_of_pos_left ?_ (Nat.two_pow_pos _))
      exact (Nat.mod_le ..).trans_lt b.isLt
    rw [BitVec.toNat_or]
    exact Nat.or_lt_two_pow ((ih (by omega) hl).trans_le (Nat.pow_le_pow_right (by decide) (by omega))) hb

/-- What a read of several bytes returns has each byte at its little-endian place (R53). -/
theorem Memory.read_of_readBytes {m : Memory} {a n k : Nat} {v : U64} (hn : n ≤ 8) (h : m.readBytes a n = some v)
    (hk : k < n) : m.read (a + k) = some (v.extractLsb' (8 * k) 8) := by
  induction n generalizing v with
  | zero => omega
  | succ n ih =>
    obtain ⟨low, b, hl, hb, rfl⟩ := Memory.readBytes_succ_eq_some h
    rcases Nat.lt_succ_iff_lt_or_eq.1 hk with hk | rfl
    · rw [ih (by omega) hl hk]
      congr 1
      apply BitVec.eq_of_getLsbD_eq
      intro i hlt
      have : 8 * k + i < 8 * n := by omega
      simp [hlt, this]
    · rw [hb]
      congr 1
      apply BitVec.eq_of_getLsbD_eq
      intro i hlt
      have hlow : low.getLsbD (8 * k + i) = false :=
        BitVec.testBit_toNat low ▸ Nat.testBit_lt_two_pow
          ((Memory.readBytes_lt (by omega) hl).trans_le (Nat.pow_le_pow_right (by decide) (by omega)))
      have : 8 * k + i < 64 ∧ i < 64 := by omega
      simp only [BitVec.getLsbD_extractLsb', BitVec.getLsbD_or, hlow, BitVec.getLsbD_shiftLeft, BitVec.getLsbD_setWidth]
      simp [hlt, this]

end Sys2Proof.Machine
end

section
/-! SUPPORT. The statements about the host window (20_memory.md), settled. -/

namespace Sys2Proof.Machine

/-- Settles O44: each access reaches its bytes of the register, which `writeLimb` replaces and `readLimb` returns. -/
theorem registerWindowReadsAndWrites : Obligations.RegisterWindowReadsAndWrites := by
  intro s r data hb
  have hlow : hostTarget s.params (0x100 + 16 * r.val) .w64 = some (.limb r 0) :=
    hostTarget_limb _ r rfl (by decide) (.inr rfl) rfl
  have hhigh : hostTarget s.params (0x108 + 16 * r.val) .w64 = some (.limb r 8) :=
    hostTarget_limb _ r (by omega) (by decide) (.inr rfl) rfl
  refine ⟨?_, ?_, ?_, ?_, fun k hk => ?_⟩
  · exact writeLimb_low (s.reg r) data ▸ hostWrite_limb_of_idle hb hlow
  · exact writeLimb_high (s.reg r) data ▸ hostWrite_limb_of_idle hb hhigh
  · exact readLimb_low (s.reg r) ▸ hostRead_limb_of_idle hb hlow
  · exact readLimb_high (s.reg r) ▸ hostRead_limb_of_idle hb hhigh
  · have hword : hostTarget s.params (0x100 + 16 * r.val + 4 * k) .w32 = some (.limb r (4 * k)) :=
      hostTarget_limb _ r rfl (by omega) (.inl rfl) (Nat.mul_mod_right ..)
    have hbits : 8 * (4 * k) = 32 * k := by omega
    refine ⟨⟨_, fun i hlt => ?_, hostWrite_limb_of_idle hb hword⟩, ?_⟩
    · exact hbits ▸ getLsbD_writeLimb _ _ (by decide) data hlt
    · rw [← hbits]
      exact readLimb_eq_ofNat (s.reg r) (4 * k) (n := 4) (by decide) ▸ hostRead_limb_of_idle hb hword

/-- Settles O45: a write sets the bytes one by one, and a read joins them. -/
theorem textWindowReadsAndWrites : Obligations.TextWindowReadsAndWrites := by
  intro s a width data hb hw ha hal
  have ht := hostTarget_text ha hw hal
  have hn : width.bytes ≤ 8 := width_bytes_le hw
  have hsome := Memory.readBytes_isSome s.text a width.bytes
  refine ⟨⟨_, hostWrite_text_of_idle hb ht, fun k hk => ?_, fun x hx => ?_, rfl⟩, fun h => ?_, fun h => ?_⟩
  · exact Memory.read_writeBytes_inside _ _ _ _ _ hk
  · exact Memory.read_writeBytes_outside _ _ _ _ _ hx
  · obtain ⟨v, hv⟩ := Option.isSome_iff_exists.1 (hsome.2 h)
    exact ⟨v, hostRead_text_of_written hb ht hv, fun k hk => Memory.read_of_readBytes hn hv hk,
      Memory.readBytes_lt hn hv⟩
  · obtain ⟨k, hk, hnone⟩ := h
    refine hostRead_text_of_unwritten hb ht (Option.not_isSome_iff_eq_none.1 fun h => ?_)
    simpa [hnone] using hsome.1 h k hk

/-- Settles O46: an access is legal exactly when it reaches something, and reaching nothing is the bus error. -/
theorem busErrorsAreExactlyTheIllegalAccesses : Obligations.BusErrorsAreExactlyTheIllegalAccesses := by
  intro a s
  have hw : (hostTarget s.params a.off a.width).isSome = a.wellFormed s.params := by
    cases a <;> exact hostTarget_isSome ..
  rw [← hw, Option.isSome_eq_false_iff, Option.isNone_iff_eq_none]
  exact (hostAccess_eq_busError_iff a s).symm

/-- Settles O47: such an access reaches CMD, a register or text; the port drops the write, or answers a free value. -/
theorem busyWindowDropsWrites : Obligations.BusyWindowDropsWrites := by
  intro s hb
  refine ⟨fun a ha => ?_, fun off width hl hr => ⟨_, hostRead_of_busy hb (hostTarget_window hl hr)⟩⟩
  cases a with
  | read off width => cases ha
  | write off width data => exact hostWrite_of_busy hb (hostTarget_of_dropsWhenBusy ha)

/-- Settles O48: a read that completes only answers, or draws a free value too; the four writes are ignored. -/
theorem hostReadsHaveNoSideEffect : Obligations.HostReadsHaveNoSideEffect := by
  refine ⟨fun off width s t h => ?_, fun off hoff data s => ?_⟩
  · obtain ⟨-, rfl⟩ | ⟨v, rfl⟩ | ⟨n, rfl⟩ := hostRead_next_cases h
    · exact respond_blockUnchanged s _
    · exact respond_blockUnchanged s _
    · exact readAny_blockUnchanged s n
  · simp only [List.mem_cons, List.not_mem_nil, or_false] at hoff
    obtain rfl | rfl | rfl | rfl := hoff <;> rfl

end Sys2Proof.Machine
end

section
/-! SUPPORT. Reading a word back from its fields (30_encoding.md R81, R82, R88), what the opcode map answers, and its
agreement with the opcode table (R86, R87). -/

namespace Sys2Proof

/-! ### A word from its fields -/

/-- The word of a format: the fields the format does not use are 0 (R82, R88). -/
def formatWord (f : Format) (op : BitVec 8) (rd rs1 rs2 rd2 : Reg) : Cmd :=
  match f with
  | .rz => assembleWord op rd 0 0 0
  | .ru => assembleWord op rd rs1 0 0
  | .rb => assembleWord op rd rs1 rs2 0
  | .rd2 => assembleWord op rd rs1 rs2 rd2

section Fields

variable (w : Cmd) (j : Nat)

theorem getLsbD_fieldRd : (regBits (fieldRd w)).getLsbD j = (decide (j < 4) && w.getLsbD (8 + j)) :=
  BitVec.getLsbD_extractLsb' ..

theorem getLsbD_fieldRs1 : (regBits (fieldRs1 w)).getLsbD j = (decide (j < 4) && w.getLsbD (12 + j)) :=
  BitVec.getLsbD_extractLsb' ..

theorem getLsbD_fieldRs2 : (regBits (fieldRs2 w)).getLsbD j = (decide (j < 4) && w.getLsbD (16 + j)) :=
  BitVec.getLsbD_extractLsb' ..

theorem getLsbD_fieldRd2 : (regBits (fieldRd2 w)).getLsbD j = (decide (j < 4) && w.getLsbD (20 + j)) :=
  BitVec.getLsbD_extractLsb' ..

end Fields

/-- A word whose fixed bits are an opcode is that opcode with the word's own register fields. -/
theorem formatWord_of_fixedBits {f : Format} {op : BitVec 8} {w : Cmd} (h : w &&& formatMask f = op.setWidth 32) :
    formatWord f op (fieldRd w) (fieldRs1 w) (fieldRs2 w) (fieldRd2 w) = w := by
  apply BitVec.eq_of_getLsbD_eq
  intro k hk
  have hbit : (w.getLsbD k && (formatMask f).getLsbD k) = op.getLsbD k := by
    rw [← BitVec.getLsbD_and, h, BitVec.getLsbD_setWidth, decide_eq_true hk, Bool.true_and]
  cases f
  all_goals
    simp only [formatWord, getLsbD_assembleWord _ _ _ _ _ _ hk, getLsbD_fieldRd, getLsbD_fieldRs1, getLsbD_fieldRs2,
      getLsbD_fieldRd2, regBits_zero, ← hbit, formatMask]
    interval_cases k <;> simp

/-! ### The opcode map and the decoder -/

/-- The command the opcode map answers has that opcode, and its word is made of the fields its format uses. -/
theorem encode_of_commandOf {n : Nat} {d a b e : Reg} {i : Instr} (h : commandOf n d a b e = some i) :
    (opcodeOf i).toNat = n ∧ encode i = formatWord (formatOf i) (opcodeOf i) d a b e := by
  unfold commandOf at h
  split at h <;> cases h <;> exact ⟨rfl, rfl⟩

/-- A word decodes to the command of its opcode and fields exactly when its fixed bits are the opcode alone. -/
theorem decode_eq_ok_iff {w : Cmd} {i : Instr} : decode w = .ok i ↔
    commandOf (fieldOp w).toNat (fieldRd w) (fieldRs1 w) (fieldRs2 w) (fieldRd2 w) = some i ∧
      w &&& formatMask (formatOf i) = (opcodeOf i).setWidth 32 := by
  cases hc : commandOf (fieldOp w).toNat (fieldRd w) (fieldRs1 w) (fieldRs2 w) (fieldRd2 w) with
  | none => simp [decode, hc]
  | some j =>
    simp only [decode, hc, Option.some.injEq]
    constructor
    · intro h
      split at h <;> cases h
      exact ⟨rfl, ‹_›⟩
    · rintro ⟨rfl, hm⟩
      exact if_pos hm

/-! ### The opcode table -/

/-- The opcode map names a command for every row of the table, whatever the operands, and the row's mask and pattern are
the ones of that command. -/
theorem commandOf_row {row : OpcodeRow} (h : row ∈ opcodeTable) (d a b e : Reg) :
    ∃ i, commandOf (fieldOp row.pattern).toNat d a b e = some i ∧
      formatMask (formatOf i) = row.mask ∧ (opcodeOf i).setWidth 32 = row.pattern := by
  fin_cases h <;> exact ⟨_, rfl, rfl, rfl⟩

/-- Every command has a row in the table. -/
theorem opcodeOf_mem_table (i : Instr) : ∃ row ∈ opcodeTable, fieldOp row.pattern = opcodeOf i := by
  have h : opcodeOf i ∈ opcodeTable.map fun row => fieldOp row.pattern := by
    cases i <;> simp only [opcodeOf] <;> decide
  simpa using h

theorem Cmd.wellFormed_iff (w : Cmd) : w.wellFormed = true ↔
    (∃ row ∈ opcodeTable, fieldOp w = fieldOp row.pattern) ∧
      ∀ row ∈ opcodeTable, fieldOp w = fieldOp row.pattern → w &&& row.mask = row.pattern := by
  simp only [Cmd.wellFormed, Cmd.listedOpcode, Cmd.unusedFieldsZero, fieldOp, Bool.and_eq_true, List.any_eq_true,
    List.all_eq_true, Bool.or_eq_true, beq_iff_eq, bne_iff_ne, imp_iff_not_or]

/-- The decoder and the opcode table agree on which words are legal (R87, R88). -/
theorem decode_isOk_iff_wellFormed (w : Cmd) : (∃ i, decode w = .ok i) ↔ w.wellFormed = true := by
  simp only [decode_eq_ok_iff, Cmd.wellFormed_iff]
  constructor
  · rintro ⟨i, hi, hm⟩
    have hop : fieldOp w = opcodeOf i := BitVec.eq_of_toNat_eq (encode_of_commandOf hi).1.symm
    obtain ⟨row, hrow, hr⟩ := opcodeOf_mem_table i
    refine ⟨⟨row, hrow, hop.trans hr.symm⟩, fun row' hrow' he => ?_⟩
    obtain ⟨i', hi', hmask, hpat⟩ := commandOf_row hrow' (fieldRd w) (fieldRs1 w) (fieldRs2 w) (fieldRd2 w)
    obtain rfl : i = i' := Option.some.inj (hi.symm.trans (he ▸ hi'))
    rw [← hmask, ← hpat, hm]
  · rintro ⟨⟨row, hrow, he⟩, hall⟩
    obtain ⟨i, hi, hmask, hpat⟩ := commandOf_row hrow (fieldRd w) (fieldRs1 w) (fieldRs2 w) (fieldRd2 w)
    exact ⟨i, he ▸ hi, by rw [hmask, hpat, hall row hrow he]⟩

end Sys2Proof
end

section
/-! SUPPORT. What a register after a command depends on (30_encoding.md R84), and the limb operations of the
pseudo-commands as operations on values (R92). -/

namespace Sys2Proof.Machine

/-! ### A register after a command -/

variable {s s' : State} {q : Reg}

theorem regAfter_finish (rd : Reg) (v : U128) (s : State) (q : Reg) :
    regAfter (finish rd v s) q = some (if q = rd then v else s.reg q) := by
  split
  case isTrue h => simp [regAfter, finish, h]
  case isFalse h => simp [regAfter, finish, State.reg_setReg_ne _ _ _ _ h]

theorem regAfter_finish_congr (hq : s'.reg q = s.reg q) (rd : Reg) {v v' : U128} (hv : v' = v) :
    regAfter (finish rd v' s') q = regAfter (finish rd v s) q := by
  rw [regAfter_finish, regAfter_finish, hq, hv]

theorem regAfter_finishTwo_congr (hq : s'.reg q = s.reg q) (rd rd2 : Reg) (v v2 : U128) :
    regAfter (finishTwo rd rd2 v v2 s') q = regAfter (finishTwo rd rd2 v v2 s) q :=
  regAfter_finish_congr (s := s.setReg rd v) (s' := s'.setReg rd v)
    (Option.some.inj (regAfter_finish_congr hq rd rfl)) rd2 rfl

theorem regAfter_raise_congr (hq : s'.reg q = s.reg q) (c : Cause) (w : Cmd) :
    regAfter (.next (s'.raise c w)) q = regAfter (.next (s.raise c w)) q :=
  congrArg some hq

theorem regAfter_divideThen_congr (hq : s'.reg q = s.reg q) (i : Instr) {x x' y y' : U128}
    {write write' : U128 → U128 → Result} (hx : x' = x) (hy : y' = y)
    (hw : ∀ u v, regAfter (write' u v) q = regAfter (write u v) q) :
    regAfter (divideThen i x' y' write' s') q = regAfter (divideThen i x y write s) q := by
  subst hx hy
  unfold divideThen
  split
  · exact regAfter_raise_congr hq ..
  · exact hw ..

/-- A register after a command depends on the register before, on the registers read whole, on the low limbs, and on the
text memory alone (30_encoding.md R84). -/
theorem regAfter_exec_congr {i : Instr} (hwhole : ∀ a ∈ wholeOperands i, s'.reg a = s.reg a)
    (hscalar : ∀ a, s'.scalar a = s.scalar a) (htext : s'.text = s.text) (hparams : s'.params = s.params)
    (hq : s'.reg q = s.reg q) : regAfter (exec i s') q = regAfter (exec i s) q := by
  cases i
  case divrem rq rr a b =>
    exact regAfter_divideThen_congr hq _ (hwhole a (.head _)) (hwhole b (.tail _ (.head _)))
      (regAfter_finishTwo_congr hq rq rr)
  case div rd a b | mod rd a b =>
    simp only [exec, execDiv, execMod]
    refine regAfter_divideThen_congr hq _ (hwhole a (.head _)) (hwhole b (.tail _ (.head _))) fun _ _ => ?_
    exact regAfter_finish_congr hq rd rfl
  case divS rd a b | modS rd a b =>
    simp only [exec, execDivS, execModS]
    refine regAfter_divideThen_congr hq _ (hwhole a (.head _)) (congrArg zext128 (hscalar b)) fun _ _ => ?_
    exact regAfter_finish_congr hq rd rfl
  case parse rd a l =>
    simp only [exec, execParse, htext, hparams, hscalar]
    split
    · exact regAfter_finish_congr hq rd rfl
    · exact regAfter_raise_congr hq ..
    · rfl
  all_goals
    simp only [wholeOperands, List.forall_mem_cons, List.not_mem_nil, false_implies, implies_true, and_true] at hwhole
    refine regAfter_finish_congr hq _ ?_
    simp only [hwhole, hscalar]

theorem State.scalar_setReg {r : Reg} {v : U128} (h : lo v = lo (s.reg r)) (a : Reg) :
    (s.setReg r v).scalar a = s.scalar a := by
  by_cases ha : a = r
  · rw [ha, State.scalar, State.reg_setReg_same, h, State.scalar]
  · rw [State.scalar, State.reg_setReg_ne _ _ _ _ ha, State.scalar]

/-! ### The values of the pseudo-commands -/

theorem or128_self (a : U128) : or128 a a = a := by
  rw [or128, BitVec.or_self, BitVec.or_self, cat_hi_lo]

theorem xor128_eq_xor (a b : U128) : xor128 a b = a ^^^ b := by
  apply eq_of_limbs
  · rw [xor128, hi_cat, hi, hi, hi, BitVec.extractLsb'_xor]
  · rw [xor128, lo_cat, lo, lo, lo, BitVec.extractLsb'_xor]

/-- Without a borrow in, the limb difference borrows exactly when it must (43_addsub.md R171). -/
theorem subb_false (x y : U64) : subb x y false = (x - y, x.ult y) := by
  have hborrow : x.ult (x - y) = x.ult y := by
    have hx := x.isLt
    have hy := y.isLt
    simp only [BitVec.ult, BitVec.toNat_sub, decide_eq_decide]
    omega
  have hself : (x - y).ult (x - y) = false := by simp [BitVec.ult]
  simp [subb, bit64, hborrow, hself]

theorem ult_toNat (x y : U64) : (x.ult y).toNat = if x.toNat < y.toNat then 1 else 0 := by
  rw [BitVec.ult, Bool.toNat, Bool.cond_decide]

/-- The borrow of the low limbs makes the limb differences the difference of the values (R173). -/
theorem sub128_eq_sub (a b : U128) : sub128 a b = a - b := by
  have hhigh (x y : U64) (c : Bool) : (subb x y c).1 = x - y - bit64 c := rfl
  apply BitVec.eq_of_toNat_eq
  have ha := a.isLt
  have hb := b.isLt
  rw [sub128, subb_false, hhigh, cat_toNat]
  simp only [BitVec.toNat_sub, bit64_toNat, ult_toNat, hi_toNat, lo_toNat]
  split <;> omega

end Sys2Proof.Machine
end

section
/-! SUPPORT. The statements about the encoding (30_encoding.md), settled. -/

namespace Sys2Proof.Machine

/-- Settles O1, command by command: the laws of `Laws.RoundTrip`. -/
theorem decodeOfEncodeIsTheCommand : Obligations.DecodeOfEncodeIsTheCommand
  | .create d a b => Laws.RoundTrip.create d a b
  | .fromscalar d a => Laws.RoundTrip.fromscalar d a
  | .high d a => Laws.RoundTrip.high d a
  | .low d a => Laws.RoundTrip.low d a
  | .czero d => Laws.RoundTrip.czero d
  | .cmax d => Laws.RoundTrip.cmax d
  | .shl d a b => Laws.RoundTrip.shl d a b
  | .shr d a b => Laws.RoundTrip.shr d a b
  | .orR d a b => Laws.RoundTrip.orR d a b
  | .xorR d a b => Laws.RoundTrip.xorR d a b
  | .andR d a b => Laws.RoundTrip.andR d a b
  | .orS d a b => Laws.RoundTrip.orS d a b
  | .xorS d a b => Laws.RoundTrip.xorS d a b
  | .andS d a b => Laws.RoundTrip.andS d a b
  | .cmpEq d a b => Laws.RoundTrip.cmpEq d a b
  | .cmpLt d a b => Laws.RoundTrip.cmpLt d a b
  | .cmpLe d a b => Laws.RoundTrip.cmpLe d a b
  | .cmpGt d a b => Laws.RoundTrip.cmpGt d a b
  | .cmpGe d a b => Laws.RoundTrip.cmpGe d a b
  | .add d a b => Laws.RoundTrip.add d a b
  | .sub d a b => Laws.RoundTrip.sub d a b
  | .addS d a b => Laws.RoundTrip.addS d a b
  | .subS d a b => Laws.RoundTrip.subS d a b
  | .mul64 d a b => Laws.RoundTrip.mul64 d a b
  | .mul d a b => Laws.RoundTrip.mul d a b
  | .mulS d a b => Laws.RoundTrip.mulS d a b
  | .divrem d e a b => Laws.RoundTrip.divrem d e a b
  | .div d a b => Laws.RoundTrip.div d a b
  | .mod d a b => Laws.RoundTrip.mod d a b
  | .divS d a b => Laws.RoundTrip.divS d a b
  | .modS d a b => Laws.RoundTrip.modS d a b
  | .inc d a => Laws.RoundTrip.inc d a
  | .dec d a => Laws.RoundTrip.dec d a
  | .parse d a b => Laws.RoundTrip.parse d a b

/-- Settles O2: a legal word is its opcode and the fields its format uses, and so is the command's word. -/
theorem encodeOfDecodeIsTheWord : Obligations.EncodeOfDecodeIsTheWord := by
  intro w i h
  obtain ⟨hi, hm⟩ := decode_eq_ok_iff.1 h
  exact (encode_of_commandOf hi).2.trans (formatWord_of_fixedBits hm)

/-- Settles O3: a word that is not of the table does not decode, and the core's move on it raises. -/
theorem illegalWordsFaultAndOthersDecode : Obligations.IllegalWordsFaultAndOthersDecode := by
  refine ⟨decode_isOk_iff_wellFormed, by decide, fun s w hp hw => ?_⟩
  cases hd : decode w with
  | ok i => exact absurd ((decode_isOk_iff_wellFormed w).1 ⟨i, hd⟩) (by simp [hw])
  | error e => exact ⟨_, coreStep_illegal s w e hp hd, raise_faultEntry s .illegalCmd w⟩

/-- Settles O56: replacing the high limb of a register that is not read whole keeps every low limb and every register
that is. -/
theorem scalarOperandsIgnoreTheHighLimb : Obligations.ScalarOperandsIgnoreTheHighLimb := by
  intro i s r v hr hlo q hq
  refine regAfter_exec_congr (fun a ha => ?_) (State.scalar_setReg hlo) rfl rfl (State.reg_setReg_ne _ _ _ _ hq)
  exact State.reg_setReg_ne _ _ _ _ (ne_of_mem_of_not_mem ha hr)

/-- Settles O59: each pseudo-command is one `finish`, whose value is the one the table names. -/
theorem pseudoCommandsDoWhatTheySay : Obligations.PseudoCommandsDoWhatTheySay := by
  intro s rd a b
  refine ⟨?_, writes_of_finish rfl, fun hb => ?_, fun hb => ?_⟩
  · exact or128_self (s.reg a) ▸ writes_of_finish rfl
  · have hmax : s.reg b = BitVec.allOnes 128 := BitVec.eq_of_toNat_eq hb
    have hnot : xor128 (s.reg a) (s.reg b) = ~~~s.reg a := by
      rw [xor128_eq_xor, hmax, BitVec.xor_allOnes]
    exact hnot ▸ writes_of_finish rfl
  · have hzero : s.reg b = 0 := BitVec.eq_of_toNat_eq hb
    have hneg : sub128 (s.reg b) (s.reg a) = BitVec.ofNat 128 (2 ^ 128 - s.num a) := by
      rw [sub128_eq_sub, hzero]
      simp [BitVec.sub_def, State.num]
    rw [WritesNat, ← hneg]
    exact writes_of_finish rfl

/-- Settles O4, by evaluating the decoder on each word. -/
theorem specExampleWordsDecode : Obligations.SpecExampleWordsDecode :=
  ⟨rfl, rfl, rfl, rfl, rfl, rfl⟩

end Sys2Proof.Machine
end

section
/-! SUPPORT. The limbs of a register as the numbers the statements name, and a command's result given by its number. -/

namespace Sys2Proof.Machine

variable {s : State} {r : Reg}

theorem State.scalar_toNat (s : State) (r : Reg) : (s.scalar r).toNat = s.loNum r := lo_toNat (s.reg r)

theorem State.hiNum_of_reg {h l : U64} (hr : s.reg r = cat h l) : s.hiNum r = h.toNat := by
  rw [State.hiNum, State.num, ← hi_toNat, hr, hi_cat]

theorem State.loNum_of_reg {h l : U64} (hr : s.reg r = cat h l) : s.loNum r = l.toNat := by
  rw [← State.scalar_toNat, State.scalar, hr, lo_cat]

/-- A u64 result keeps its number when it is written as a value (30_encoding.md R85). -/
theorem cat_zero_toNat (l : U64) : (cat 0 l).toNat = l.toNat := by
  rw [← zext128_eq_cat, zext128_toNat]

/-- A command that is one `finish` writes the number of its value. -/
theorem writesNat_of_finish {i : Instr} {rd : Reg} {v : U128} {n : Nat} (h : exec i s = finish rd v s)
    (hv : v.toNat = n) : WritesNat i s rd n := by
  have hn : BitVec.ofNat 128 n = v := by rw [← hv, BitVec.ofNat_toNat, BitVec.setWidth_eq]
  rw [WritesNat, hn]
  exact writes_of_finish h

end Sys2Proof.Machine
end

section
/-! SUPPORT. The statements about construction, accessors and constants (40_construct.md), settled. -/

namespace Sys2Proof.Machine

theorem writesNat_create (s : State) (rd a b : Reg) :
    WritesNat (.create rd a b) s rd (s.loNum a * 2 ^ 64 + s.loNum b) :=
  writesNat_of_finish rfl (by rw [cat_toNat, State.scalar_toNat, State.scalar_toNat])

theorem writesNat_fromscalar (s : State) (rd a : Reg) : WritesNat (.fromscalar rd a) s rd (s.loNum a) :=
  writesNat_of_finish rfl ((cat_zero_toNat _).trans (s.scalar_toNat a))

theorem writesNat_high (s : State) (rd a : Reg) : WritesNat (.high rd a) s rd (s.hiNum a) :=
  writesNat_of_finish rfl ((cat_zero_toNat _).trans (hi_toNat (s.reg a)))

theorem writesNat_low (s : State) (rd a : Reg) : WritesNat (.low rd a) s rd (s.loNum a) :=
  writesNat_of_finish rfl ((cat_zero_toNat _).trans (lo_toNat (s.reg a)))

/-- Settles O9: each command is one `finish`, whose value has the number its rule names. -/
theorem constructionWrites : Obligations.ConstructionWrites := by
  intro s rd a b
  refine ⟨writesNat_create s rd a b, writesNat_fromscalar s rd a, writesNat_high s rd a, writesNat_low s rd a, ?_, ?_⟩
  · exact writesNat_of_finish rfl (congrArg BitVec.toNat zero128_eq)
  · exact writesNat_of_finish rfl max128_toNat

/-- Settles O10: the destination of CREATE holds `{R[a].lo, R[b].lo}`, so its limbs are the two scalars. -/
theorem createThenAccessorsReturnTheScalars : Obligations.CreateThenAccessorsReturnTheScalars := by
  refine ⟨fun s rd a b q => ?_, cat_hi_lo⟩
  obtain ⟨t, ht, hreg, -⟩ := finish_spec rd (cat (s.scalar a) (s.scalar b)) s
  have hhigh : t.hiNum rd = s.loNum a := (State.hiNum_of_reg hreg).trans (s.scalar_toNat a)
  have hlow : t.loNum rd = s.loNum b := (State.loNum_of_reg hreg).trans (s.scalar_toNat b)
  exact ⟨t, ht, hhigh ▸ writesNat_high t q rd, hlow ▸ writesNat_low t q rd⟩

end Sys2Proof.Machine
end

section
/-! SUPPORT. The values of the shifts and of the bitwise logic (41_bitwise.md): the limb forms as operations on the
whole value, and the whole value as a number. -/

namespace Sys2Proof.Machine

/-! ### A result modulo 2^128 -/

/-- A command that is one `finish` writes the number of its value, modulo 2^128 (`trunc_128`, 00_scope.md R8). -/
theorem writesNat_of_finish_mod {i : Instr} {s : State} {rd : Reg} {v : U128} {n : Nat}
    (h : exec i s = finish rd v s) (hv : v.toNat = n % 2 ^ 128) : WritesNat i s rd n := by
  have hn : BitVec.ofNat 128 n = v := BitVec.eq_of_toNat_eq ((BitVec.toNat_ofNat ..).trans hv.symm)
  rw [WritesNat, hn]
  exact writes_of_finish h

/-! ### The shifts as numbers (R130, R131) -/

theorem shiftLeft_toNat (a : U128) (n : Nat) : (a <<< n).toNat = a.toNat * 2 ^ n % 2 ^ 128 := by
  rw [BitVec.toNat_shiftLeft, Nat.shiftLeft_eq]

theorem ushiftRight_toNat (a : U128) (n : Nat) : (a >>> n).toNat = a.toNat / 2 ^ n := by
  rw [BitVec.toNat_ushiftRight, Nat.shiftRight_eq_div_pow]

theorem shl128_toNat (a : U128) (n : U64) :
    (shl128 a n).toNat = (if 128 ≤ n.toNat then 0 else a.toNat * 2 ^ n.toNat) % 2 ^ 128 := by
  unfold shl128
  split
  · rw [zero128_eq]; rfl
  · exact shiftLeft_toNat a n.toNat

theorem shr128_toNat (a : U128) (n : U64) :
    (shr128 a n).toNat = if 128 ≤ n.toNat then 0 else a.toNat / 2 ^ n.toNat := by
  unfold shr128
  split
  · rw [zero128_eq]; rfl
  · exact ushiftRight_toNat a n.toNat

/-! ### The limb shift datapaths (R132) -/

theorem getLsbD_hi (v : U128) (i : Nat) : (hi v).getLsbD i = v.getLsbD (64 + i) := by
  rw [hi, BitVec.getLsbD_extractLsb']
  by_cases h : i < 64
  · simp [h]
  · simp [h, BitVec.getLsbD_of_ge v (64 + i) (by omega)]

theorem getLsbD_lo (v : U128) (i : Nat) : (lo v).getLsbD i = (decide (i < 64) && v.getLsbD i) := by
  rw [lo, BitVec.getLsbD_extractLsb', Nat.zero_add]

/-- A shift by `64 - n` done in two steps, each below 64 (the `63 - n` trick). -/
theorem ushiftRight_one_ushiftRight (x : U64) {n : Nat} (h : n < 64) : x >>> 1 >>> (63 - n) = x >>> (64 - n) := by
  rw [← BitVec.shiftRight_add]
  congr 1
  omega

theorem shiftLeft_one_shiftLeft (x : U64) {n : Nat} (h : n < 64) : x <<< 1 <<< (63 - n) = x <<< (64 - n) := by
  rw [← BitVec.shiftLeft_add]
  congr 1
  omega

/-- Below 64 the upper bits of the low limb move into the high limb. -/
theorem cat_shiftLeft_of_lt (a : U128) {n : Nat} (h : n < 64) :
    cat (hi a <<< n ||| lo a >>> (64 - n)) (lo a <<< n) = a <<< n := by
  apply BitVec.eq_of_getLsbD_eq
  intro i hlt
  simp only [getLsbD_cat, BitVec.getLsbD_or, BitVec.getLsbD_shiftLeft, BitVec.getLsbD_ushiftRight, getLsbD_hi,
    getLsbD_lo]
  by_cases hlow : i < 64
  · have hbounds : i - n < 64 := by omega
    simp [*]
  · by_cases hcarry : i - 64 < n
    · have hindex : 64 - n + (i - 64) = i - n := by omega
      have hbounds : ¬i < n ∧ i - n < 64 := by omega
      simp [*]
    · have hindex : 64 + (i - 64 - n) = i - n := by omega
      have hbounds : ¬i < n ∧ ¬64 - n + (i - 64) < 64 ∧ i - 64 < 64 := by omega
      simp [*]

/-- From 64 on the low limb moves into the high limb. -/
theorem cat_shiftLeft_of_le (a : U128) {n : Nat} (h : 64 ≤ n) : cat (lo a <<< (n - 64)) 0 = a <<< n := by
  apply BitVec.eq_of_getLsbD_eq
  intro i hlt
  simp only [getLsbD_cat, BitVec.getLsbD_shiftLeft, getLsbD_lo]
  by_cases hlow : i < 64
  · have hbounds : i < n := by omega
    simp [*]
  · have hindex : i - 64 - (n - 64) = i - n := by omega
    have hbounds : i - 64 < 64 ∧ i - n < 64 ∧ (i - 64 < n - 64 ↔ i < n) := by omega
    simp [*]

/-- Below 64 the lower bits of the high limb move into the low limb. -/
theorem cat_ushiftRight_of_lt (a : U128) {n : Nat} (h : n < 64) :
    cat (hi a >>> n) (lo a >>> n ||| hi a <<< (64 - n)) = a >>> n := by
  apply BitVec.eq_of_getLsbD_eq
  intro i hlt
  simp only [getLsbD_cat, BitVec.getLsbD_or, BitVec.getLsbD_shiftLeft, BitVec.getLsbD_ushiftRight, getLsbD_hi,
    getLsbD_lo]
  by_cases hlow : i < 64
  · by_cases hcarry : n + i < 64
    · have hbounds : i < 64 - n := by omega
      simp [*]
    · have hindex : 64 + (i - (64 - n)) = n + i := by omega
      have hbounds : ¬i < 64 - n := by omega
      simp [*]
  · have hindex : 64 + (n + (i - 64)) = n + i := by omega
    simp [*]

/-- From 64 on the high limb moves into the low limb. -/
theorem cat_ushiftRight_of_le (a : U128) {n : Nat} (h : 64 ≤ n) : cat 0 (hi a >>> (n - 64)) = a >>> n := by
  apply BitVec.eq_of_getLsbD_eq
  intro i _
  simp only [getLsbD_cat, BitVec.getLsbD_ushiftRight, getLsbD_hi]
  by_cases hlow : i < 64
  · have hindex : 64 + (n - 64 + i) = n + i := by omega
    simp [*]
  · have hout : 128 ≤ n + i := by omega
    simp [*]

theorem shlLimbs_eq_shiftLeft (a : U128) (n : Nat) : shlLimbs a n = a <<< n := by
  unfold shlLimbs
  split
  case isTrue h => rw [h, BitVec.shiftLeft_zero]
  case isFalse =>
    split
    case isTrue h => rw [ushiftRight_one_ushiftRight _ h, cat_shiftLeft_of_lt a h]
    case isFalse h => exact cat_shiftLeft_of_le a (not_lt.1 h)

theorem shrLimbs_eq_ushiftRight (a : U128) (n : Nat) : shrLimbs a n = a >>> n := by
  unfold shrLimbs
  split
  case isTrue h => rw [h, BitVec.ushiftRight_zero]
  case isFalse =>
    split
    case isTrue h => rw [shiftLeft_one_shiftLeft _ h, cat_ushiftRight_of_lt a h]
    case isFalse h => exact cat_ushiftRight_of_le a (not_lt.1 h)

/-! ### Logic (R133 to R138) -/

theorem or128_eq_or (a b : U128) : or128 a b = a ||| b := by
  rw [or128, cat, ← BitVec.or_append]
  exact congrArg₂ (· ||| ·) (cat_hi_lo a) (cat_hi_lo b)

theorem and128_eq_and (a b : U128) : and128 a b = a &&& b := by
  rw [and128, cat, ← BitVec.and_append]
  exact congrArg₂ (· &&& ·) (cat_hi_lo a) (cat_hi_lo b)

/-- A command that replaces the low limb of `R[a]` and keeps the high limb, as the scalar forms do. -/
theorem writesNat_of_keep_high {i : Instr} {s : State} {rd a : Reg} {l : U64} {n : Nat}
    (h : exec i s = finish rd (cat (hi (s.reg a)) l) s) (hl : l.toNat = n) :
    WritesNat i s rd (s.hiNum a * 2 ^ 64 + n) :=
  writesNat_of_finish h (by rw [cat_toNat, hi_toNat, hl, State.hiNum, State.num])

end Sys2Proof.Machine
end

section
/-! SUPPORT. The statements about shifts and bitwise logic (41_bitwise.md), settled. -/

namespace Sys2Proof.Machine

/-- Settles O11: each command is one `finish`, and the count is the number in the low limb of RS2. -/
theorem shiftWrites : Obligations.ShiftWrites := by
  intro s rd a b
  rw [← State.scalar_toNat]
  exact ⟨writesNat_of_finish_mod rfl (shl128_toNat _ _), writesNat_of_finish rfl (shr128_toNat _ _)⟩

/-- Settles O12: the limb datapaths are the shifts of the whole value (for every count, not only below 128). -/
theorem shiftLimbDatapathIsTheShift : Obligations.ShiftLimbDatapathIsTheShift := by
  intro a n _
  rw [shlLimbs_eq_shiftLeft, shrLimbs_eq_ushiftRight]
  exact ⟨shiftLeft_toNat a n, ushiftRight_toNat a n⟩

/-- Settles O13: each command is one `finish`, whose limbs are those of the operation on the whole value. -/
theorem logicWrites : Obligations.LogicWrites := by
  intro s rd a b
  rw [← or128_eq_or, ← xor128_eq_xor, ← and128_eq_and]
  exact ⟨writes_of_finish rfl, writes_of_finish rfl, writes_of_finish rfl⟩

/-- Settles O14: each command keeps the high limb of RS1 and replaces the low limb. -/
theorem scalarLogicWrites : Obligations.ScalarLogicWrites := by
  intro s rd a b
  refine ⟨writesNat_of_keep_high rfl ?_, writesNat_of_keep_high rfl ?_, writesNat_of_keep_high rfl ?_⟩
  · exact (BitVec.toNat_or ..).trans (congrArg₂ _ (s.scalar_toNat a) (s.scalar_toNat b))
  · exact (BitVec.toNat_xor ..).trans (congrArg₂ _ (s.scalar_toNat a) (s.scalar_toNat b))
  · exact (BitVec.toNat_and ..).trans (congrArg₂ _ (s.scalar_toNat a) (s.scalar_toNat b))

end Sys2Proof.Machine
end

section
/-! SUPPORT. The comparisons of 42_compare.md as relations on the numbers, and the truth value that is written. -/

namespace Sys2Proof.Machine

/-! ### The relations on the numbers (R150, R151) -/

theorem hi_lo_toNat (a : U128) : (hi a).toNat * 2 ^ 64 + (lo a).toNat = a.toNat := by
  rw [← cat_toNat, cat_hi_lo]

/-- Equality limb by limb is equality of the numbers. -/
theorem eq128_iff (a b : U128) : eq128 a b = true ↔ a.toNat = b.toNat := by
  rw [eq128, Bool.and_eq_true, beq_iff_eq, beq_iff_eq, BitVec.toNat_inj]
  constructor
  · rintro ⟨hh, hl⟩
    exact eq_of_limbs a b hh hl
  · rintro rfl
    exact ⟨rfl, rfl⟩

/-- The lexicographic order of the limbs is the order of the numbers, because a low limb is below 2^64. -/
theorem lt128_iff (a b : U128) : lt128 a b = true ↔ a.toNat < b.toNat := by
  have hlex : lt128 a b = true ↔
      (hi a).toNat < (hi b).toNat ∨ (hi a).toNat = (hi b).toNat ∧ (lo a).toNat < (lo b).toNat := by
    rw [lt128, Bool.or_eq_true, Bool.and_eq_true, beq_iff_eq, BitVec.ult_iff_lt, BitVec.ult_iff_lt, BitVec.toNat_inj]
    rfl
  have hla := (lo a).isLt
  have hlb := (lo b).isLt
  rw [hlex, ← hi_lo_toNat a, ← hi_lo_toNat b]
  omega

theorem eq128_eq_decide (a b : U128) : eq128 a b = decide (a.toNat = b.toNat) :=
  Bool.eq_iff_iff.2 ((eq128_iff a b).trans decide_eq_true_iff.symm)

theorem lt128_eq_decide (a b : U128) : lt128 a b = decide (a.toNat < b.toNat) :=
  Bool.eq_iff_iff.2 ((lt128_iff a b).trans decide_eq_true_iff.symm)

/-- LE and GE are computed as the negated order (R152, R154). -/
theorem not_lt128_iff (a b : U128) : (!lt128 a b) = true ↔ b.toNat ≤ a.toNat := by
  rw [Bool.not_eq_true', ← Bool.not_eq_true, lt128_iff, not_lt]

/-! ### The total order (R155) -/

/-- Exactly one of LT, EQ and GT answers 1. -/
theorem lt128_eq128_gt128_exclusive (a b : U128) :
    (lt128 a b).toNat + (eq128 a b).toNat + (lt128 b a).toNat = 1 := by
  rw [lt128_eq_decide, eq128_eq_decide, lt128_eq_decide]
  obtain h | h | h := lt_trichotomy a.toNat b.toNat
  · simp [h, h.ne, h.not_gt]
  · simp [h]
  · simp [h, h.ne', h.not_gt]

/-- "Not greater" is "less or equal". -/
theorem not_lt128_eq_lt_or_eq (a b : U128) : (!lt128 b a) = (lt128 a b || eq128 a b) := by
  rw [Bool.eq_iff_iff, Bool.or_eq_true, not_lt128_iff, lt128_iff, eq128_iff]
  exact Nat.le_iff_lt_or_eq

theorem eq128_comm (a b : U128) : eq128 a b = eq128 b a := by
  rw [eq128_eq_decide, eq128_eq_decide]
  exact decide_eq_decide.2 eq_comm

/-! ### The truth value written (R85) -/

theorem truth_toNat (c : Bool) : (truth c).toNat = if c then 1 else 0 := by
  cases c <;> rfl

/-- A command that is one `finish` of a truth value writes 1 when the relation holds and 0 when not. -/
theorem writesNat_of_finish_truth {i : Instr} {s : State} {rd : Reg} {c : Bool} {p : Prop} [Decidable p]
    (h : exec i s = finish rd (truth c) s) (hc : c = true ↔ p) : WritesNat i s rd (if p then 1 else 0) :=
  writesNat_of_finish h ((truth_toNat c).trans (if_congr hc rfl rfl))

end Sys2Proof.Machine
end

section
/-! SUPPORT. The statements about comparison (42_compare.md), settled. -/

namespace Sys2Proof.Machine

/-- Settles O15: each command is one `finish` of a truth value that is the relation of the two numbers. -/
theorem comparisonWrites : Obligations.ComparisonWrites := by
  intro s rd a b
  exact ⟨writesNat_of_finish_truth rfl (eq128_iff _ _), writesNat_of_finish_truth rfl (lt128_iff _ _),
    writesNat_of_finish_truth rfl (not_lt128_iff _ _), writesNat_of_finish_truth rfl (lt128_iff _ _),
    writesNat_of_finish_truth rfl (not_lt128_iff _ _)⟩

/-- Settles O16: the three order relations exclude each other because those of the numbers do, and the negation of one
strict order is the other one or EQ. -/
theorem comparisonIsATotalOrder : Obligations.ComparisonIsATotalOrder := by
  intro a b
  refine ⟨lt128_eq128_gt128_exclusive a b, not_lt128_eq_lt_or_eq a b, ?_, ?_⟩
  · rw [eq128_comm, not_lt128_eq_lt_or_eq]
  · rw [hi_lo_toNat, hi_lo_toNat, lt128_eq_decide]

end Sys2Proof.Machine
end

section
/-! SUPPORT. The carries and borrows of the limbs (43_addsub.md R170, R171) as numbers: a carry or borrow out is worth
2^64, so a limb result together with it accounts for the whole sum or difference. -/

namespace Sys2Proof.Machine

/-! ### One detector -/

/-- The sum of two limbs falls below the first of them exactly when it wraps. -/
theorem add_ult_toNat (x y : U64) : (x + y).toNat + 2 ^ 64 * ((x + y).ult x).toNat = x.toNat + y.toNat := by
  have hx := x.isLt
  have hy := y.isLt
  rw [ult_toNat, BitVec.toNat_add]
  split <;> omega

/-- The difference of two limbs rises above the first of them exactly when it wraps. -/
theorem ult_sub_toNat (x y : U64) : (x - y).toNat + y.toNat = x.toNat + 2 ^ 64 * (x.ult (x - y)).toNat := by
  have hx := x.isLt
  have hy := y.isLt
  rw [ult_toNat, BitVec.toNat_sub]
  split <;> omega

theorem ult_sub_eq_ult (x y : U64) : x.ult (x - y) = x.ult y := by
  have hsub := ult_sub_toNat x y
  have hd := (x - y).isLt
  have hy := y.isLt
  have hout := (x.ult (x - y)).toNat_le
  rw [Bool.eq_iff_iff, BitVec.ult_iff_lt (y := y), BitVec.lt_def, ← Bool.toNat_eq_one]
  omega

/-! ### The adder and the subtractor -/

theorem toNat_or_of_not_and :
    ∀ {c d : Bool}, ¬(c = true ∧ d = true) → (c || d).toNat = c.toNat + d.toNat := by
  decide

/-- A sum that has wrapped lies two below 2^64 at most, so the carry in cannot wrap it again. -/
theorem addc_detectors_exclusive (x y : U64) (c : Bool) :
    ¬((x + y).ult x = true ∧ (x + y + bit64 c).ult (x + y) = true) := by
  rintro ⟨h1, h2⟩
  have hsum := add_ult_toNat x y
  have hcarry := add_ult_toNat (x + y) (bit64 c)
  rw [h1, Bool.toNat_true] at hsum
  rw [h2, Bool.toNat_true, bit64_toNat] at hcarry
  have hc := c.toNat_le
  omega

/-- A difference that has wrapped is at least 1, so the borrow in cannot wrap it again. -/
theorem subb_detectors_exclusive (x y : U64) (b : Bool) :
    ¬(x.ult (x - y) = true ∧ (x - y).ult (x - y - bit64 b) = true) := by
  rintro ⟨h1, h2⟩
  have hdiff := ult_sub_toNat x y
  have hborrow := ult_sub_toNat (x - y) (bit64 b)
  rw [h1, Bool.toNat_true] at hdiff
  rw [h2, Bool.toNat_true, bit64_toNat] at hborrow
  have hb := b.toNat_le
  omega

/-- Sum and carry out account for the two limbs and the carry in (R170). -/
theorem addc_total (x y : U64) (c : Bool) :
    (addc x y c).1.toNat + 2 ^ 64 * (addc x y c).2.toNat = x.toNat + y.toNat + c.toNat := by
  have hcarry := toNat_or_of_not_and (addc_detectors_exclusive x y c)
  have hsum := add_ult_toNat x y
  have hstep := add_ult_toNat (x + y) (bit64 c)
  rw [bit64_toNat] at hstep
  simp only [addc, hcarry]
  omega

/-- Difference and borrow out account for the two limbs and the borrow in (R171). -/
theorem subb_total (x y : U64) (b : Bool) :
    (subb x y b).1.toNat + y.toNat + b.toNat = x.toNat + 2 ^ 64 * (subb x y b).2.toNat := by
  have hborrow := toNat_or_of_not_and (subb_detectors_exclusive x y b)
  have hdiff := ult_sub_toNat x y
  have hstep := ult_sub_toNat (x - y) (bit64 b)
  rw [bit64_toNat] at hstep
  simp only [subb, hborrow]
  omega

theorem addc_sum_toNat (x y : U64) (c : Bool) :
    (addc x y c).1.toNat = (x.toNat + y.toNat + c.toNat) % 2 ^ 64 := by
  have htotal := addc_total x y c
  have hsum := (addc x y c).1.isLt
  omega

theorem addc_carry (x y : U64) (c : Bool) :
    (addc x y c).2 = decide (2 ^ 64 ≤ x.toNat + y.toNat + c.toNat) := by
  have htotal := addc_total x y c
  have hsum := (addc x y c).1.isLt
  have hout := (addc x y c).2.toNat_le
  rw [Bool.eq_iff_iff, decide_eq_true_iff, ← Bool.toNat_eq_one]
  omega

theorem subb_difference_toNat (x y : U64) (b : Bool) :
    (subb x y b).1.toNat = (2 ^ 65 + x.toNat - y.toNat - b.toNat) % 2 ^ 64 := by
  have htotal := subb_total x y b
  have hdiff := (subb x y b).1.isLt
  have hy := y.isLt
  have hb := b.toNat_le
  omega

theorem subb_borrow (x y : U64) (b : Bool) : (subb x y b).2 = decide (x.toNat < y.toNat + b.toNat) := by
  have htotal := subb_total x y b
  have hdiff := (subb x y b).1.isLt
  have hout := (subb x y b).2.toNat_le
  rw [Bool.eq_iff_iff, decide_eq_true_iff, ← Bool.toNat_eq_one]
  omega

/-! ### The values of ADD, SUB, ADD_S and SUB_S (R172 to R175) -/

/-- The carry of the low limbs makes the limb sums the sum of the values (R172). -/
theorem add128_toNat (a b : U128) : (add128 a b).toNat = (a.toNat + b.toNat) % 2 ^ 128 := by
  have hlow := addc_total (lo a) (lo b) false
  have hhigh := addc_sum_toNat (hi a) (hi b) (addc (lo a) (lo b) false).2
  have hlt := (addc (lo a) (lo b) false).1.isLt
  rw [add128, cat_toNat, hhigh, ← hi_lo_toNat a, ← hi_lo_toNat b]
  rw [Bool.toNat_false] at hlow
  omega

theorem add128_eq_add (a b : U128) : add128 a b = a + b :=
  BitVec.eq_of_toNat_eq ((add128_toNat a b).trans (BitVec.toNat_add a b).symm)

theorem sub128_toNat (a b : U128) : (sub128 a b).toNat = (a.toNat + (2 ^ 128 - b.toNat)) % 2 ^ 128 := by
  rw [sub128_eq_sub, BitVec.toNat_sub, Nat.add_comm]

/-- Without a carry in, the first detector alone is the carry out. -/
theorem addc_false (x y : U64) : addc x y false = (x + y, (x + y).ult x) := by
  have hself : (x + y).ult (x + y) = false := by simp [BitVec.ult]
  simp [addc, bit64, hself]

/-- With the second operand 0, only the carry in is added. -/
theorem addc_zero_sum (x : U64) (c : Bool) : (addc x 0 c).1 = x + bit64 c :=
  congrArg (· + bit64 c) (BitVec.add_zero x)

/-- With the second operand 0, only the borrow in is subtracted. -/
theorem subb_zero_difference (x : U64) (b : Bool) : (subb x 0 b).1 = x - bit64 b :=
  congrArg (· - bit64 b) (BitVec.sub_zero x)

theorem addScalar_eq_add128 (a : U128) (x : U64) : addScalar a x = add128 a (cat 0 x) := by
  rw [add128, hi_cat, lo_cat, addc_false, addc_zero_sum, addScalar]

theorem subScalar_eq_sub128 (a : U128) (x : U64) : subScalar a x = sub128 a (cat 0 x) := by
  rw [sub128, hi_cat, lo_cat, subb_false, subb_zero_difference, subScalar, ult_sub_eq_ult]

theorem addScalar_toNat (a : U128) (x : U64) : (addScalar a x).toNat = (a.toNat + x.toNat) % 2 ^ 128 := by
  rw [addScalar_eq_add128, add128_toNat, cat_zero_toNat]

theorem subScalar_toNat (a : U128) (x : U64) :
    (subScalar a x).toNat = (a.toNat + (2 ^ 128 - x.toNat)) % 2 ^ 128 := by
  rw [subScalar_eq_sub128, sub128_toNat, cat_zero_toNat]

end Sys2Proof.Machine
end

section
/-! SUPPORT. The statements about addition and subtraction (43_addsub.md), settled. -/

namespace Sys2Proof.Machine

/-- Settles O17: each closed form follows from the account that a result and its carry or borrow give. -/
theorem limbAdderClosedForms : Obligations.LimbAdderClosedForms := by
  intro x y c
  exact ⟨addc_sum_toNat x y c, addc_carry x y c, addc_detectors_exclusive x y c, subb_difference_toNat x y c,
    subb_borrow x y c⟩

/-- Settles O18: each command is one `finish` of the sum or the difference modulo 2^128. -/
theorem addSubWrites : Obligations.AddSubWrites := by
  intro s rd a b
  exact ⟨writesNat_of_finish_mod rfl (add128_toNat _ _), writesNat_of_finish_mod rfl (sub128_toNat _ _)⟩

/-- Settles O19: each command is one `finish`, and the scalar is the number in the low limb of RS2. -/
theorem scalarAddSubWrites : Obligations.ScalarAddSubWrites := by
  intro s rd a b
  rw [← State.scalar_toNat]
  exact ⟨writesNat_of_finish_mod rfl (addScalar_toNat _ _), writesNat_of_finish_mod rfl (subScalar_toNat _ _)⟩

/-- Settles O20: the limb forms are addition and subtraction of the values, of which the one undoes the other. -/
theorem additionLaws : Obligations.AdditionLaws := by
  intro a b x
  refine ⟨add128_eq_add a b, sub128_eq_sub a b, ?_, addScalar_eq_add128 a x, subScalar_eq_sub128 a x⟩
  rw [sub128_eq_sub, add128_eq_add, BitVec.add_sub_cancel]

end Sys2Proof.Machine
end

section
/-! SUPPORT. The products of 44_multiply.md as numbers: the four partial products of 32-bit halves recombine to the
exact product (R190), and the cross products folded into the high limb give the product modulo 2^128 (R192). -/

namespace Sys2Proof.Machine

/-! ### The exact product of two limbs (R190) -/

/-- The product of two limbs stays below 2^128, so it does not wrap. -/
theorem mul64_toNat (a b : U64) : (mul64 a b).toNat = a.toNat * b.toNat := by
  have hlt : a.toNat * b.toNat < 2 ^ 64 * 2 ^ 64 := Nat.mul_lt_mul'' a.isLt b.isLt
  rw [mul64, BitVec.toNat_mul, zext128_toNat, zext128_toNat]
  exact Nat.mod_eq_of_lt hlt

/-! ### The 32-bit halves of a limb -/

/-- Bits 63..32, `a1` and `b1` of R190. -/
def highHalf (x : U64) : U64 := x >>> 32

/-- Bits 31..0, `a0` and `b0` of R190. -/
def lowHalf (x : U64) : U64 := x &&& 0xFFFFFFFF

theorem highHalf_toNat (x : U64) : (highHalf x).toNat = x.toNat / 2 ^ 32 := by
  rw [highHalf, BitVec.toNat_ushiftRight, Nat.shiftRight_eq_div_pow]

theorem lowHalf_toNat (x : U64) : (lowHalf x).toNat = x.toNat % 2 ^ 32 := by
  rw [lowHalf, BitVec.toNat_and]
  exact Nat.and_two_pow_sub_one_eq_mod x.toNat 32

theorem highHalf_lt (x : U64) : (highHalf x).toNat < 2 ^ 32 := by
  rw [highHalf_toNat]
  exact Nat.div_lt_of_lt_mul x.isLt

theorem lowHalf_lt (x : U64) : (lowHalf x).toNat < 2 ^ 32 := by
  rw [lowHalf_toNat]
  exact Nat.mod_lt _ (Nat.two_pow_pos 32)

theorem halves_toNat (x : U64) : (highHalf x).toNat * 2 ^ 32 + (lowHalf x).toNat = x.toNat := by
  rw [highHalf_toNat, lowHalf_toNat, Nat.div_add_mod']

/-- A low half moved to the upper half keeps all its bits, and joins another low half without an overlap. -/
theorem lowHalves_or_toNat (x y : U64) :
    (lowHalf x ||| lowHalf y <<< 32).toNat = (lowHalf y).toNat * 2 ^ 32 + (lowHalf x).toNat := by
  have hy := lowHalf_lt y
  have hmove : (lowHalf y).toNat <<< 32 < 2 ^ 64 := by
    rw [Nat.shiftLeft_eq]
    omega
  rw [BitVec.toNat_or, BitVec.toNat_shiftLeft, Nat.mod_eq_of_lt hmove, Nat.or_comm,
    ← Nat.shiftLeft_add_eq_or_of_lt (lowHalf_lt x), Nat.shiftLeft_eq]

/-! ### The partial products -/

/-- A product of halves leaves room for the carries of the recombination. -/
theorem mul_halves_le {m n : Nat} (hm : m < 2 ^ 32) (hn : n < 2 ^ 32) : m * n ≤ (2 ^ 32 - 1) * (2 ^ 32 - 1) :=
  Nat.mul_le_mul (Nat.le_pred_of_lt hm) (Nat.le_pred_of_lt hn)

theorem mul_halves_toNat {x y : U64} (hx : x.toNat < 2 ^ 32) (hy : y.toNat < 2 ^ 32) :
    (x * y).toNat = x.toNat * y.toNat := by
  have hle := mul_halves_le hx hy
  rw [BitVec.toNat_mul, Nat.mod_eq_of_lt (by omega)]

theorem mul_halves_toNat_le {x y : U64} (hx : x.toNat < 2 ^ 32) (hy : y.toNat < 2 ^ 32) :
    (x * y).toNat ≤ (2 ^ 32 - 1) * (2 ^ 32 - 1) :=
  (mul_halves_toNat hx hy).trans_le (mul_halves_le hx hy)

/-! ### The recombination -/

/-- What `mul64Datapath` does with its four partial products: it adds them up with the carries across the 32-bit
boundaries. -/
def recombine (p00 p01 p10 p11 : U64) : U128 :=
  let mid := highHalf p00 + lowHalf p01 + lowHalf p10
  cat (p11 + highHalf p01 + highHalf p10 + highHalf mid) (lowHalf p00 ||| lowHalf mid <<< 32)

theorem mul64Datapath_eq_recombine (a b : U64) : mul64Datapath a b =
    recombine (lowHalf a * lowHalf b) (lowHalf a * highHalf b) (highHalf a * lowHalf b) (highHalf a * highHalf b) :=
  rfl

/-- Neither `mid` nor the high limb overflows, because the partial products are products of halves. -/
theorem recombine_toNat {p00 p01 p10 p11 : U64} (h01 : p01.toNat ≤ (2 ^ 32 - 1) * (2 ^ 32 - 1))
    (h10 : p10.toNat ≤ (2 ^ 32 - 1) * (2 ^ 32 - 1)) (h11 : p11.toNat ≤ (2 ^ 32 - 1) * (2 ^ 32 - 1)) :
    (recombine p00 p01 p10 p11).toNat =
      p11.toNat * 2 ^ 64 + (p01.toNat + p10.toNat) * 2 ^ 32 + p00.toNat := by
  have h00 := p00.isLt
  simp only [recombine, cat_toNat, lowHalves_or_toNat, BitVec.toNat_add, highHalf_toNat, lowHalf_toNat]
  omega

/-- The recombined sum is the product of the two limbs, each split into its halves. -/
theorem mul64Datapath_toNat (a b : U64) : (mul64Datapath a b).toNat = a.toNat * b.toNat := by
  have hsum := recombine_toNat (p00 := lowHalf a * lowHalf b) (mul_halves_toNat_le (lowHalf_lt a) (highHalf_lt b))
    (mul_halves_toNat_le (highHalf_lt a) (lowHalf_lt b)) (mul_halves_toNat_le (highHalf_lt a) (highHalf_lt b))
  rw [← mul64Datapath_eq_recombine, mul_halves_toNat (lowHalf_lt a) (lowHalf_lt b),
    mul_halves_toNat (lowHalf_lt a) (highHalf_lt b), mul_halves_toNat (highHalf_lt a) (lowHalf_lt b),
    mul_halves_toNat (highHalf_lt a) (highHalf_lt b)] at hsum
  rw [hsum, ← halves_toNat a, ← halves_toNat b]
  ring

/-! ### The products modulo 2^128 (R192, R193) -/

/-- What is added into the high limb counts 2^64 times, and what overflows the high limb counts a multiple of 2^128. -/
theorem cat_hi_add_toNat (p : U128) {u : U64} {n : Nat} (hu : u.toNat = n % 2 ^ 64) :
    (cat (hi p + u) (lo p)).toNat = (p.toNat + 2 ^ 64 * n) % 2 ^ 128 := by
  have hlow := (lo p).isLt
  rw [cat_toNat, BitVec.toNat_add, hu, Nat.add_mod_mod, ← hi_lo_toNat p]
  omega

theorem mul128_toNat (a b : U128) : (mul128 a b).toNat = a.toNat * b.toNat % 2 ^ 128 := by
  have hcross : (lo a * hi b + hi a * lo b).toNat =
      ((lo a).toNat * (hi b).toNat + (hi a).toNat * (lo b).toNat) % 2 ^ 64 := by
    rw [BitVec.toNat_add, BitVec.toNat_mul, BitVec.toNat_mul, ← Nat.add_mod]
  calc (mul128 a b).toNat
      = ((lo a).toNat * (lo b).toNat +
          2 ^ 64 * ((lo a).toNat * (hi b).toNat + (hi a).toNat * (lo b).toNat)) % 2 ^ 128 := by
        rw [mul128, BitVec.add_assoc, cat_hi_add_toNat _ hcross, mul64_toNat]
    _ = ((lo a).toNat * (lo b).toNat +
          2 ^ 64 * ((lo a).toNat * (hi b).toNat + (hi a).toNat * (lo b).toNat) +
          2 ^ 128 * ((hi a).toNat * (hi b).toNat)) % 2 ^ 128 := by
        rw [Nat.add_mul_mod_self_left]
    _ = a.toNat * b.toNat % 2 ^ 128 := by
        rw [← hi_lo_toNat a, ← hi_lo_toNat b]
        ring_nf

theorem mul128_eq_mul (a b : U128) : mul128 a b = a * b :=
  BitVec.eq_of_toNat_eq ((mul128_toNat a b).trans (BitVec.toNat_mul a b).symm)

/-- With the high limb of the second operand 0, one cross product vanishes. -/
theorem mulScalar_eq_mul128 (a : U128) (x : U64) : mulScalar a x = mul128 a (cat 0 x) := by
  simp [mul128, mulScalar]

theorem mulScalar_toNat (a : U128) (x : U64) : (mulScalar a x).toNat = a.toNat * x.toNat % 2 ^ 128 := by
  rw [mulScalar_eq_mul128, mul128_toNat, cat_zero_toNat]

theorem mul64_eq_mul128 (x y : U64) : mul64 x y = mul128 (cat 0 x) (cat 0 y) := by
  rw [mul128_eq_mul, mul64, zext128_eq_cat, zext128_eq_cat]

end Sys2Proof.Machine
end

section
/-! SUPPORT. The statements about multiplication (44_multiply.md), settled. -/

namespace Sys2Proof.Machine

/-- Settles O22: the datapath recombines the four products of halves to the product of the limbs, which `mul64` is. -/
theorem multiplierDatapathIsExact : Obligations.MultiplierDatapathIsExact :=
  fun a b => ⟨mul64Datapath_toNat a b, mul64_toNat a b⟩

/-- Settles O23: each command is one `finish` of a product, and the scalars are the numbers in the low limbs. -/
theorem multiplyWrites : Obligations.MultiplyWrites := by
  intro s rd a b
  rw [← State.scalar_toNat, ← State.scalar_toNat]
  exact ⟨writesNat_of_finish rfl (mul64_toNat _ _), writesNat_of_finish_mod rfl (mul128_toNat _ _),
    writesNat_of_finish_mod rfl (mulScalar_toNat _ _)⟩

/-- Settles O24: MUL is multiplication of the values, and the other two are MUL on operands with a high limb 0. -/
theorem multiplyLaws : Obligations.MultiplyLaws := by
  intro a b x
  refine ⟨?_, mulScalar_eq_mul128 a x, mul64_eq_mul128 (lo a) (lo b)⟩
  rw [mul128_eq_mul, mul128_eq_mul, BitVec.mul_comm]

end Sys2Proof.Machine
end

section
/-! SUPPORT. What the divider's reciprocals start from (45_divide.md R210 to R212): the leading zeros, which normalize a
divisor, and the seed table, whose listed values are those of its formula. -/

namespace Sys2Proof.Machine

/-! ### Leading zeros and normalization (R210, R211) -/

/-- Among the numbers below 2^(n + 1), bit n tells those that are 2^n at least. -/
theorem getLsbD_iff_two_pow_le {x : U64} {n : Nat} (h : x.toNat < 2 ^ (n + 1)) :
    x.getLsbD n = true ↔ 2 ^ n ≤ x.toNat := by
  refine ⟨Nat.ge_two_pow_of_testBit, fun hn => ?_⟩
  have hquot : x.toNat / 2 ^ n = 1 := Nat.div_eq_of_lt_le (by omega) (by omega)
  rw [← BitVec.testBit_toNat, Nat.testBit_eq_decide_div_mod_eq, decide_eq_true_iff, hquot]

theorem leadingZeros_bounds {x : U64} (hx : x ≠ 0) {n : Nat} (h : x.toNat < 2 ^ n) :
    leadingZeros x n < n ∧ 2 ^ (n - 1 - leadingZeros x n) ≤ x.toNat ∧ x.toNat < 2 ^ (n - leadingZeros x n) := by
  induction n with
  | zero => exact absurd (BitVec.eq_of_toNat_eq (by simpa using h)) hx
  | succ n ih =>
    simp only [leadingZeros]
    split
    case isTrue hbit => exact ⟨n.succ_pos, (getLsbD_iff_two_pow_le h).1 hbit, h⟩
    case isFalse hbit =>
      obtain ⟨hlt, hlow, hhigh⟩ := ih (not_le.1 (mt (getLsbD_iff_two_pow_le h).2 hbit))
      have hexp : n + 1 - 1 - (leadingZeros x n + 1) = n - 1 - leadingZeros x n := by omega
      rw [hexp, Nat.add_sub_add_right]
      exact ⟨Nat.succ_lt_succ hlt, hlow, hhigh⟩

theorem clz64_bounds {x : U64} (hx : x ≠ 0) :
    clz64 x ≤ 63 ∧ 2 ^ (63 - clz64 x) ≤ x.toNat ∧ x.toNat < 2 ^ (64 - clz64 x) := by
  obtain ⟨hlt, hbounds⟩ := leadingZeros_bounds hx x.isLt
  exact ⟨Nat.le_of_lt_succ hlt, hbounds⟩

theorem normalized_iff (d : U64) : normalized d = true ↔ 2 ^ 63 ≤ d.toNat := getLsbD_iff_two_pow_le d.isLt

/-- Shifted left by its leading zeros, a limb has its top bit at bit 63. -/
theorem clz64_normalizes {x : U64} (hx : x ≠ 0) :
    2 ^ 63 ≤ x.toNat * 2 ^ clz64 x ∧ x.toNat * 2 ^ clz64 x < 2 ^ 64 := by
  obtain ⟨hc, hlow, hhigh⟩ := clz64_bounds hx
  constructor
  · calc 2 ^ 63 = 2 ^ (63 - clz64 x) * 2 ^ clz64 x := by rw [← pow_add, Nat.sub_add_cancel hc]
      _ ≤ x.toNat * 2 ^ clz64 x := Nat.mul_le_mul_right _ hlow
  · calc x.toNat * 2 ^ clz64 x < 2 ^ (64 - clz64 x) * 2 ^ clz64 x :=
          Nat.mul_lt_mul_of_pos_right hhigh (Nat.two_pow_pos _)
      _ = 2 ^ 64 := by rw [← pow_add, Nat.sub_add_cancel (by omega)]

/-- Shifted left by the leading zeros of its high limb, a value has its top bit at bit 127. -/
theorem clz64_hi_normalizes {y : U128} (hy : hi y ≠ 0) :
    2 ^ 63 ≤ y.toNat * 2 ^ clz64 (hi y) / 2 ^ 64 ∧ y.toNat * 2 ^ clz64 (hi y) < 2 ^ 128 := by
  obtain ⟨hc, -, hhigh⟩ := clz64_bounds hy
  obtain ⟨hlow, -⟩ := clz64_normalizes hy
  rw [hi_toNat] at hhigh hlow
  constructor
  · rw [Nat.le_div_iff_mul_le (Nat.two_pow_pos 64)]
    calc 2 ^ 63 * 2 ^ 64 ≤ y.toNat / 2 ^ 64 * 2 ^ clz64 (hi y) * 2 ^ 64 := Nat.mul_le_mul_right _ hlow
      _ = y.toNat / 2 ^ 64 * 2 ^ 64 * 2 ^ clz64 (hi y) := Nat.mul_right_comm ..
      _ ≤ y.toNat * 2 ^ clz64 (hi y) := Nat.mul_le_mul_right _ (Nat.div_mul_le_self ..)
  · calc y.toNat * 2 ^ clz64 (hi y) < 2 ^ (64 - clz64 (hi y)) * 2 ^ 64 * 2 ^ clz64 (hi y) :=
          Nat.mul_lt_mul_of_pos_right (Nat.lt_mul_of_div_lt hhigh (Nat.two_pow_pos 64)) (Nat.two_pow_pos _)
      _ = 2 ^ 128 := by
          rw [← pow_add, ← pow_add]
          congr 1
          omega

/-! ### The seed table (R212) -/

theorem recipTable_eq : recipTable = (List.range 256).map fun i => 0x7fd00 / (0x100 ||| i) := by decide +kernel

theorem recipEntry_eq {i : Nat} (h : i < 256) : recipEntry i = 0x7fd00 / (0x100 ||| i) := by
  rw [recipEntry, recipTable_eq]
  simp [h]

/-- `0x100 | i` puts the leading 1 of a normalized divisor before its next 8 bits. -/
theorem seedIndex_or {i : Nat} (h : i < 256) : 0x100 ||| i = 0x100 + i := by
  simpa using (Nat.two_pow_add_eq_or_of_lt (i := 8) h 1).symm

theorem seedIndex_eq {d : U64} (hd : normalized d = true) :
    (d >>> 55).toNat - 256 = (d.extractLsb' 55 8).toNat := by
  rw [normalized_iff] at hd
  rw [BitVec.toNat_ushiftRight, BitVec.extractLsb'_toNat, Nat.shiftRight_eq_div_pow]
  omega

/-! ### Reciprocals as inequalities (R213, R215) -/

/-- The floor quotient of `N - 1`, less its leading 1, is the number with which the product stays below `N` and with one
more does not. -/
theorem eq_div_sub_iff {N d b v : Nat} (hd : 0 < d) (hb : b * d < N) :
    v = (N - 1) / d - b ↔ (b + v) * d < N ∧ N ≤ (b + v + 1) * d := by
  have hle : b ≤ (N - 1) / d := (Nat.le_div_iff_mul_le hd).2 (by omega)
  have hquot : v = (N - 1) / d - b ↔ (N - 1) / d = b + v := by omega
  rw [hquot, Nat.div_eq_iff hd, add_mul (b + v) 1 d]
  omega

theorem rec2by1Contract_iff {d : U64} (hd : normalized d = true) {v : Nat} :
    v = rec2by1Contract d ↔ (2 ^ 64 + v) * d.toNat < 2 ^ 128 ∧ 2 ^ 128 ≤ (2 ^ 64 + v + 1) * d.toNat := by
  have hn := (normalized_iff d).1 hd
  exact eq_div_sub_iff (by omega) (by omega)

theorem rec3by2Contract_iff {d : U128} (hd : normalized (hi d) = true) {v : Nat} :
    v = rec3by2Contract d ↔ (2 ^ 64 + v) * d.toNat < 2 ^ 192 ∧ 2 ^ 192 ≤ (2 ^ 64 + v + 1) * d.toNat := by
  have hn := (normalized_iff (hi d)).1 hd
  rw [hi_toNat] at hn
  exact eq_div_sub_iff (by omega) (by omega)

theorem one_toNat : (1 : U64).toNat = 1 := rfl

end Sys2Proof.Machine
end

section
/-! SUPPORT. How fast the Newton steps of R214 converge, as integers. The error of an estimate `v` is what `v` times the
divisor falls short of its power of two; each step about squares it, and a truncation adds a fraction of the divisor. -/

namespace Sys2Proof.Machine

/-- The seed's error. The table is keyed by `n`, the top 9 bits of the divisor; `t` is its top 40 bits plus 1. -/
theorem seedError_bounds {v n t : ℤ} (hn : 256 ≤ n ∧ n < 512) (hv : v * n ≤ 523520 ∧ 523520 < (v + 1) * n)
    (ht : 2 ^ 31 * n < t ∧ t ≤ 2 ^ 31 * (n + 1)) :
    2 ^ 10 ≤ v ∧ v < 2 ^ 11 ∧ |2 ^ 50 - v * t| ≤ 5 * 2 ^ 39 := by
  have hv0 : 2 ^ 10 ≤ v := by nlinarith
  have hv1 : v < 2 ^ 11 := by nlinarith
  have hlow : v * (2 ^ 31 * n) ≤ v * t := mul_le_mul_of_nonneg_left ht.1.le (by linarith)
  have hhigh : v * t ≤ v * (2 ^ 31 * (n + 1)) := mul_le_mul_of_nonneg_left ht.2 (by linarith)
  exact ⟨hv0, hv1, abs_le.2 ⟨by linarith, by linarith⟩⟩

theorem firstError_bounds {v t w : ℤ} (ht : 0 < t ∧ t ≤ 2 ^ 40) (he : |2 ^ 50 - v * t| ≤ 5 * 2 ^ 39)
    (hw : w + v * v * t / 2 ^ 40 + 1 = 2 ^ 11 * v) : 0 < 2 ^ 60 - w * t ∧ 2 ^ 60 - w * t ≤ 29 * 2 ^ 38 := by
  obtain ⟨r, hr, hr0, hr1⟩ : ∃ r, v * v * t = 2 ^ 40 * (2 ^ 11 * v - w - 1) + r ∧ 0 ≤ r ∧ r < 2 ^ 40 :=
    ⟨v * v * t % 2 ^ 40, by omega, by omega, by omega⟩
  have hsquared : 2 ^ 40 * (2 ^ 60 - w * t) = (2 ^ 50 - v * t) ^ 2 + (2 ^ 40 - r) * t := by
    linear_combination (-t) * hr
  have hsq0 := sq_nonneg (2 ^ 50 - v * t)
  have hsq1 : (2 ^ 50 - v * t) ^ 2 ≤ (5 * 2 ^ 39) ^ 2 := sq_le_sq' (abs_le.1 he).1 (abs_le.1 he).2
  have hrt0 : 0 < (2 ^ 40 - r) * t := mul_pos (by linarith) ht.1
  have hrt1 : (2 ^ 40 - r) * t ≤ 2 ^ 40 * 2 ^ 40 := mul_le_mul (by linarith) ht.2 ht.1.le (by norm_num)
  constructor <;> linarith

/-- From here on the error is counted against the whole divisor `d`, of which `t` is the top bits and `c` the rest. -/
theorem secondError_bounds {v t d c e w : ℤ} (hv : 0 < v ∧ v < 2 ^ 21) (ht : 0 < t)
    (hc : d = 2 ^ 24 * t - c ∧ 0 < c ∧ c ≤ 2 ^ 24) (he : v * t + e = 2 ^ 60) (he0 : 0 < e) (he1 : e ≤ 29 * 2 ^ 38)
    (hw : w = 2 ^ 13 * v + v * e / 2 ^ 47) : 0 < 2 ^ 97 - w * d ∧ 2 ^ 97 - w * d ≤ d + 875 * 2 ^ 53 := by
  obtain ⟨rfl, hc0, hc1⟩ := hc
  obtain ⟨r, hr, hr0, hr1⟩ : ∃ r, v * e = 2 ^ 47 * (w - 2 ^ 13 * v) + r ∧ 0 ≤ r ∧ r < 2 ^ 47 :=
    ⟨v * e % 2 ^ 47, by omega, by omega, by omega⟩
  have hsquared : 2 ^ 47 * (2 ^ 97 - w * (2 ^ 24 * t - c)) = 2 ^ 24 * (e ^ 2 + r * t) + 2 ^ 47 * (w * c) := by
    linear_combination (2 ^ 24 * t) * hr - (2 ^ 24 * e + 2 ^ 84) * he
  have hve0 : 0 < v * e := mul_pos hv.1 he0
  have hve1 : v * e ≤ 2 ^ 21 * (29 * 2 ^ 38) := mul_le_mul hv.2.le he1 he0.le (by norm_num)
  have hw0 : 0 < w := by omega
  have hw1 : w ≤ 2 ^ 34 + 2 ^ 17 := by omega
  have hwc0 : 0 < w * c := mul_pos hw0 hc0
  have hwc1 : w * c ≤ (2 ^ 34 + 2 ^ 17) * 2 ^ 24 := mul_le_mul hw1 hc1 hc0.le (by norm_num)
  have hsq0 := sq_nonneg e
  have hsq1 : e ^ 2 ≤ (29 * 2 ^ 38) ^ 2 := pow_le_pow_left₀ he0.le he1 2
  have hrt0 : 0 ≤ r * t := mul_nonneg hr0 ht.le
  have hrt1 : r * t ≤ 2 ^ 47 * t := mul_le_mul_of_nonneg_right hr1.le ht.le
  constructor <;> linarith

/-- The third estimate is exact or one too small: `d` runs from 2^63 to 2^64, where `d ^ 2` lies below its chord. -/
theorem thirdError_bounds {v d e w : ℤ} (hd : 2 ^ 63 ≤ d ∧ d < 2 ^ 64) (hv : 0 ≤ v ∧ v < 2 ^ 34)
    (he : v * d + e = 2 ^ 97) (he0 : 0 < e) (he1 : e ≤ d + 875 * 2 ^ 53)
    (hw : w = 2 ^ 31 * v + v * (e / 2) / 2 ^ 65) : 0 < 2 ^ 128 - w * d ∧ 2 ^ 128 - w * d < 2 * d := by
  obtain ⟨s, hs, hs0, hs1⟩ : ∃ s, e = 2 * (e / 2) + s ∧ 0 ≤ s ∧ s ≤ 1 := ⟨e % 2, by omega, by omega, by omega⟩
  obtain ⟨r, hr, hr0, hr1⟩ : ∃ r, v * (e / 2) = 2 ^ 65 * (w - 2 ^ 31 * v) + r ∧ 0 ≤ r ∧ r < 2 ^ 65 :=
    ⟨v * (e / 2) % 2 ^ 65, by omega, by omega, by omega⟩
  have hsquared : 2 ^ 66 * (2 ^ 128 - w * d) = e ^ 2 + (v * s + 2 * r) * d := by
    linear_combination (2 * d) * hr - (e + 2 ^ 97) * he + v * d * hs
  have hvs0 : 0 ≤ v * s := mul_nonneg hv.1 hs0
  have hvs1 : v * s ≤ 2 ^ 34 * 1 := mul_le_mul hv.2.le hs1 hs0 (by norm_num)
  have hrest0 : 0 ≤ (v * s + 2 * r) * d := mul_nonneg (by linarith) (by linarith)
  have hrest1 : (v * s + 2 * r) * d ≤ (2 ^ 34 + 2 ^ 66) * d := mul_le_mul_of_nonneg_right (by linarith) (by linarith)
  have hsq0 : 0 < e ^ 2 := pow_pos he0 2
  have hsq1 : e ^ 2 ≤ (d + 875 * 2 ^ 53) ^ 2 := pow_le_pow_left₀ he0.le he1 2
  have hchord : 0 ≤ (d - 2 ^ 63) * (2 ^ 64 - d) := mul_nonneg (by linarith) (by linarith)
  constructor <;> linarith

end Sys2Proof.Machine
end

section
/-! SUPPORT. The one-limb reciprocal (45_divide.md R214), step by step: what each step computes as a number, and the
error that is left after it. -/

namespace Sys2Proof.Machine

/-! ### The steps -/

/-- `v0` of R214. -/
def recipSeed (d : U64) : U64 := BitVec.ofNat 64 (recipEntry ((d >>> 55).toNat - 256))

/-- `d40` of R214. -/
def top40 (d : U64) : U64 := (d >>> 24) + 1

/-- Iteration 1, from the estimate `v` and `t = d40`. -/
def newtonFirst (v t : U64) : U64 := (v <<< 11) - (((v * v * t) >>> 40).setWidth 32).setWidth 64 - 1

/-- Iteration 2. -/
def newtonSecond (v t : U64) : U64 := (v <<< 13) + ((v * (0x1000000000000000 - v * t)) >>> 47)

/-- All ones for an odd divisor, all zeros for an even one. -/
def lowBitMask (d : U64) : U64 := 0 - (d &&& 1)

/-- `e` of R214, half the error of the second estimate `v`. -/
def halvedError (v d : U64) : U64 := ((v >>> 1) &&& lowBitMask d) - v * ((d >>> 1) + (d &&& 1))

/-- Iteration 3. -/
def newtonThird (v e : U64) : U64 := (hi (mul64 v e) >>> 1) + (v <<< 31)

/-- Iteration 4, the last bit. -/
def lastCorrection (v d : U64) : U64 := v - hi (mul64 v d + zext128 d) - d

/-- `v1` of R214. -/
def firstEstimate (d : U64) : U64 := newtonFirst (recipSeed d) (top40 d)

/-- `v2` of R214. -/
def secondEstimate (d : U64) : U64 := newtonSecond (firstEstimate d) (top40 d)

/-- `v3` of R214. -/
def thirdEstimate (d : U64) : U64 := newtonThird (secondEstimate d) (halvedError (secondEstimate d) d)

theorem rec2by1Datapath_eq (d : U64) : rec2by1Datapath d = lastCorrection (thirdEstimate d) d := rfl

/-! ### The steps as numbers -/

theorem top40_toNat (d : U64) : (top40 d).toNat = d.toNat / 2 ^ 24 + 1 := by
  rw [top40, BitVec.toNat_add, BitVec.toNat_ushiftRight, Nat.shiftRight_eq_div_pow, one_toNat]
  omega

theorem top40_bounds {d : U64} (hd : normalized d = true) : 2 ^ 39 < (top40 d).toNat ∧ (top40 d).toNat ≤ 2 ^ 40 := by
  have hn := (normalized_iff d).1 hd
  rw [top40_toNat]
  omega

theorem recipSeed_toNat {d : U64} (hd : normalized d = true) :
    (recipSeed d).toNat = 0x7fd00 / (d.toNat / 2 ^ 55) := by
  have hn := (normalized_iff d).1 hd
  have hindex : d.toNat / 2 ^ 55 - 256 < 256 := by omega
  have hkey : 0x100 + (d.toNat / 2 ^ 55 - 256) = d.toNat / 2 ^ 55 := by omega
  rw [recipSeed, BitVec.toNat_ofNat, BitVec.toNat_ushiftRight, Nat.shiftRight_eq_div_pow, recipEntry_eq hindex,
    seedIndex_or hindex, hkey]
  exact Nat.mod_eq_of_lt ((Nat.div_le_self _ _).trans_lt (by norm_num))

theorem newtonFirst_toNat {v t : U64} (hv : v.toNat < 2 ^ 11) (ht : t.toNat ≤ 2 ^ 40)
    (hfit : v.toNat * v.toNat * t.toNat / 2 ^ 40 + 1 ≤ 2 ^ 11 * v.toNat) :
    (newtonFirst v t).toNat + v.toNat * v.toNat * t.toNat / 2 ^ 40 + 1 = 2 ^ 11 * v.toNat := by
  have hvv : v.toNat * v.toNat < 2 ^ 22 := by nlinarith
  have hvvt : v.toNat * v.toNat * t.toNat ≤ 2 ^ 62 := by nlinarith
  have hmul : (v * v * t).toNat = v.toNat * v.toNat * t.toNat := by
    rw [BitVec.toNat_mul, BitVec.toNat_mul, Nat.mod_eq_of_lt (hvv.trans (by norm_num)),
      Nat.mod_eq_of_lt (hvvt.trans_lt (by norm_num))]
  simp only [newtonFirst, BitVec.toNat_sub, BitVec.toNat_setWidth, BitVec.toNat_ushiftRight, BitVec.toNat_shiftLeft,
    Nat.shiftLeft_eq, Nat.shiftRight_eq_div_pow, one_toNat, hmul]
  omega

theorem newtonSecond_toNat {v t : U64} {e : Nat} (hv : v.toNat < 2 ^ 21) (he : v.toNat * t.toNat + e = 2 ^ 60)
    (he0 : 0 < e) (he1 : e ≤ 29 * 2 ^ 38) : (newtonSecond v t).toNat = 2 ^ 13 * v.toNat + v.toNat * e / 2 ^ 47 := by
  have herror : (0x1000000000000000 - v * t).toNat = e := by
    have hpow : (0x1000000000000000 : U64).toNat = 2 ^ 60 := by decide
    rw [BitVec.toNat_sub, BitVec.toNat_mul, hpow]
    omega
  have hlt : v.toNat * e < 2 ^ 64 := by nlinarith
  rw [newtonSecond, BitVec.toNat_add, BitVec.toNat_ushiftRight, BitVec.toNat_shiftLeft, BitVec.toNat_mul, herror,
    Nat.shiftLeft_eq, Nat.shiftRight_eq_div_pow]
  omega

theorem lowBit_toNat (d : U64) : (d &&& 1).toNat = d.toNat % 2 := by
  rw [BitVec.toNat_and, one_toNat]
  exact Nat.and_one_is_mod d.toNat

theorem and_lowBitMask_toNat (x d : U64) :
    (x &&& lowBitMask d).toNat = if d.toNat % 2 = 0 then 0 else x.toNat := by
  split
  case isTrue h =>
    have hbit : d &&& 1 = 0 := BitVec.eq_of_toNat_eq ((lowBit_toNat d).trans h)
    rw [lowBitMask, hbit]
    simp
  case isFalse h =>
    have hbit : d &&& 1 = 1 := BitVec.eq_of_toNat_eq ((lowBit_toNat d).trans (Nat.mod_two_ne_zero.1 h))
    rw [lowBitMask, hbit]
    exact congrArg BitVec.toNat BitVec.and_allOnes

/-- The formula for `e` halves `v * d` without forming it: `d` is split into twice `k` and its low bit. -/
theorem halvedError_toNat {v d : U64} {e : Nat} (he : v.toNat * d.toNat + e = 2 ^ 97) (he1 : e < 2 ^ 65) :
    (halvedError v d).toNat = e / 2 := by
  obtain ⟨k, hk⟩ : ∃ k, d.toNat = 2 * k + d.toNat % 2 := ⟨d.toNat / 2, by omega⟩
  have hhalf : ((d >>> 1) + (d &&& 1)).toNat = k + d.toNat % 2 := by
    rw [BitVec.toNat_add, BitVec.toNat_ushiftRight, lowBit_toNat, Nat.shiftRight_eq_div_pow]
    omega
  rw [halvedError, BitVec.toNat_sub, BitVec.toNat_mul, hhalf, and_lowBitMask_toNat, mul_add]
  split
  case isTrue heven =>
    rw [heven, add_zero] at hk
    rw [hk, Nat.mul_left_comm] at he
    rw [heven]
    omega
  case isFalse hodd =>
    rw [Nat.mod_two_ne_zero.1 hodd] at hk ⊢
    rw [hk, mul_add, Nat.mul_left_comm] at he
    rw [BitVec.toNat_ushiftRight, Nat.shiftRight_eq_div_pow]
    omega

theorem newtonThird_toNat (v e : U64) :
    (newtonThird v e).toNat = (2 ^ 31 * v.toNat + v.toNat * e.toNat / 2 ^ 65) % 2 ^ 64 := by
  simp only [newtonThird, BitVec.toNat_add, BitVec.toNat_ushiftRight, BitVec.toNat_shiftLeft, hi_toNat, mul64_toNat,
    Nat.shiftLeft_eq, Nat.shiftRight_eq_div_pow]
  omega

/-- The verification multiply tells whether the estimate is exact or one too small. -/
theorem lastCorrection_exact {v d : U64} {e : Nat} (hn : 2 ^ 63 ≤ d.toNat)
    (he : (2 ^ 64 + v.toNat) * d.toNat + e = 2 ^ 128) (he0 : 0 < e) (he1 : e ≤ 2 * d.toNat) :
    (2 ^ 64 + (lastCorrection v d).toNat) * d.toNat < 2 ^ 128 ∧
      2 ^ 128 ≤ (2 ^ 64 + (lastCorrection v d).toNat + 1) * d.toNat := by
  have hv := v.isLt
  have hd := d.isLt
  have hle : v.toNat * d.toNat ≤ (2 ^ 64 - 1) * (2 ^ 64 - 1) :=
    Nat.mul_le_mul (Nat.le_pred_of_lt hv) (Nat.le_pred_of_lt hd)
  have hsum : (mul64 v d + zext128 d).toNat = v.toNat * d.toNat + d.toNat := by
    rw [BitVec.toNat_add, mul64_toNat, zext128_toNat]
    exact Nat.mod_eq_of_lt (by omega)
  rw [add_mul] at he
  by_cases hlast : e ≤ d.toNat
  · have hhi : (v.toNat * d.toNat + d.toNat) / 2 ^ 64 = 2 ^ 64 - d.toNat := by omega
    have hres : (lastCorrection v d).toNat = v.toNat := by
      rw [lastCorrection, BitVec.toNat_sub, BitVec.toNat_sub, hi_toNat, hsum, hhi]
      omega
    rw [hres]
    constructor <;> linarith
  · have hhi : (v.toNat * d.toNat + d.toNat) / 2 ^ 64 = 2 ^ 64 - d.toNat - 1 := by omega
    have hroom : v.toNat + 1 < 2 ^ 64 := by nlinarith
    have hres : (lastCorrection v d).toNat = v.toNat + 1 := by
      rw [lastCorrection, BitVec.toNat_sub, BitVec.toNat_sub, hi_toNat, hsum, hhi]
      omega
    rw [hres]
    constructor <;> linarith

/-! ### The errors of the estimates -/

/-- A positive error of integers, as a number that completes the product. -/
theorem exists_add_eq {a b N bound : Nat} {n m : ℤ} (h0 : 0 < n - a * b) (h1 : n - a * b ≤ m)
    (hN : (N : ℤ) = n) (hbound : (bound : ℤ) = m) : ∃ e, a * b + e = N ∧ 0 < e ∧ e ≤ bound := by
  subst hN hbound
  rw [← Nat.cast_mul] at h0 h1
  exact ⟨N - a * b, by omega, by omega, by omega⟩

theorem lt_of_mul_lt {a b c x : Nat} (h : a * b < x * c) (hb : c ≤ b) : a < x :=
  Nat.lt_of_mul_lt_mul_right (h.trans_le (Nat.mul_le_mul_left x hb))

section Estimates

variable {d : U64} (hd : normalized d = true)
include hd

theorem recipSeed_error : (recipSeed d).toNat < 2 ^ 11 ∧ 2 ^ 10 ≤ (recipSeed d).toNat ∧
    |2 ^ 50 - ((recipSeed d).toNat : ℤ) * (top40 d).toNat| ≤ 5 * 2 ^ 39 := by
  have hn := (normalized_iff d).1 hd
  have hpos : 0 < d.toNat / 2 ^ 55 := by omega
  have hlow : (recipSeed d).toNat * (d.toNat / 2 ^ 55) ≤ 0x7fd00 := by
    rw [recipSeed_toNat hd]
    exact Nat.div_mul_le_self ..
  have hhigh : 0x7fd00 < ((recipSeed d).toNat + 1) * (d.toNat / 2 ^ 55) := by
    rw [recipSeed_toNat hd]
    exact Nat.lt_mul_of_div_lt (Nat.lt_succ_self _) hpos
  obtain ⟨hv0, hv1, he⟩ := seedError_bounds (v := (recipSeed d).toNat) (n := (d.toNat / 2 ^ 55 : ℕ))
    (t := (top40 d).toNat) (by omega) (by exact_mod_cast And.intro hlow hhigh) (by rw [top40_toNat]; omega)
  exact ⟨by exact_mod_cast hv1, by exact_mod_cast hv0, he⟩

theorem firstEstimate_error :
    ∃ e : Nat, (firstEstimate d).toNat * (top40 d).toNat + e = 2 ^ 60 ∧ 0 < e ∧ e ≤ 29 * 2 ^ 38 := by
  obtain ⟨hv1, hv0, he⟩ := recipSeed_error hd
  obtain ⟨ht0, ht1⟩ := top40_bounds hd
  have hfit : (recipSeed d).toNat * (recipSeed d).toNat * (top40 d).toNat / 2 ^ 40 + 1
      ≤ 2 ^ 11 * (recipSeed d).toNat := by
    have hvt : (recipSeed d).toNat * (top40 d).toNat ≤ 2 ^ 50 + 5 * 2 ^ 39 := by
      zify
      linarith [(abs_le.1 he).1]
    have hvvt := Nat.mul_le_mul_left (recipSeed d).toNat hvt
    rw [← mul_assoc] at hvvt
    omega
  have hw := newtonFirst_toNat hv1 ht1 hfit
  obtain ⟨hpos, hle⟩ := firstError_bounds (w := (firstEstimate d).toNat) (by omega) he (by exact_mod_cast hw)
  exact exists_add_eq hpos hle (by norm_num) (by norm_num)

theorem secondEstimate_error : ∃ e : Nat, (secondEstimate d).toNat * d.toNat + e = 2 ^ 97 ∧
    0 < e ∧ e ≤ d.toNat + 875 * 2 ^ 53 := by
  obtain ⟨e, he, he0, he1⟩ := firstEstimate_error hd
  obtain ⟨ht0, ht1⟩ := top40_bounds hd
  have hv1 : (firstEstimate d).toNat < 2 ^ 21 := lt_of_mul_lt (c := 2 ^ 39) (by omega) ht0.le
  have hv0 : 0 < (firstEstimate d).toNat :=
    Nat.pos_of_ne_zero (left_ne_zero_of_mul (b := (top40 d).toNat) (by omega))
  have hw := newtonSecond_toNat hv1 he he0 he1
  obtain ⟨hpos, hle⟩ := secondError_bounds (v := (firstEstimate d).toNat) (t := (top40 d).toNat) (d := d.toNat)
    (c := 2 ^ 24 - (d.toNat % 2 ^ 24 : ℕ)) (w := (secondEstimate d).toNat) (e := e) (by omega) (by omega)
    (by rw [top40_toNat]; omega) (by exact_mod_cast he) (by omega) (by omega) (by exact_mod_cast hw)
  exact exists_add_eq hpos hle (by norm_num) (by norm_num)

theorem thirdEstimate_error : ∃ e : Nat, (2 ^ 64 + (thirdEstimate d).toNat) * d.toNat + e = 2 ^ 128 ∧
    0 < e ∧ e ≤ 2 * d.toNat := by
  obtain ⟨e, he, he0, he1⟩ := secondEstimate_error hd
  have hlt := d.isLt
  have hn := (normalized_iff d).1 hd
  have hv : (secondEstimate d).toNat < 2 ^ 34 := lt_of_mul_lt (c := 2 ^ 63) (by omega) hn
  have hstep := newtonThird_toNat (secondEstimate d) (halvedError (secondEstimate d) d)
  rw [halvedError_toNat he (by omega)] at hstep
  obtain ⟨w, hw⟩ : ∃ w, w = 2 ^ 31 * (secondEstimate d).toNat + (secondEstimate d).toNat * (e / 2) / 2 ^ 65 :=
    ⟨_, rfl⟩
  obtain ⟨hpos, hle⟩ := thirdError_bounds (v := (secondEstimate d).toNat) (d := d.toNat) (e := e) (w := w)
    (by omega) (by omega) (by exact_mod_cast he) (by omega) (by omega) (by exact_mod_cast hw)
  obtain ⟨e', he', hpos', hle'⟩ :=
    exists_add_eq (N := 2 ^ 128) (bound := 2 * d.toNat) hpos hle.le (by norm_num) (by norm_num)
  have hw0 : 2 ^ 64 ≤ w := by nlinarith
  have hw1 : w < 2 ^ 65 := lt_of_mul_lt (c := 2 ^ 63) (by omega) hn
  have hres : 2 ^ 64 + (thirdEstimate d).toNat = w := by
    rw [thirdEstimate, hstep]
    omega
  rw [hres]
  exact ⟨e', he', hpos', hle'⟩

theorem rec2by1Datapath_toNat : (rec2by1Datapath d).toNat = rec2by1Contract d := by
  obtain ⟨e, he, he0, he1⟩ := thirdEstimate_error hd
  rw [rec2by1Contract_iff hd, rec2by1Datapath_eq]
  exact lastCorrection_exact ((normalized_iff d).1 hd) he he0 he1

end Estimates

end Sys2Proof.Machine
end

section
/-! SUPPORT. The division steps (45_divide.md R218, R220): a quotient guess, the remainder that goes with it as an
integer, which may lie one divisor below or above its range, and the two corrections that bring it back. -/

namespace Sys2Proof.Machine

/-! ### Words that stand for integers -/

theorem intCast_toNat {w : Nat} (x : BitVec w) : ((x.toNat : ℤ) : BitVec w) = x := by
  rw [Int.cast_natCast, BitVec.natCast_eq_ofNat, BitVec.ofNat_toNat, BitVec.setWidth_eq]

theorem toNat_intCast_of_nonneg {w : Nat} {n : ℤ} (h0 : 0 ≤ n) (h1 : n < 2 ^ w) :
    (((n : BitVec w).toNat : ℕ) : ℤ) = n := by
  rw [BitVec.toNat_intCast, Int.toNat_of_nonneg (Int.emod_nonneg _ (by positivity)), Int.emod_eq_of_lt h0 h1]

theorem toNat_intCast_of_neg {w : Nat} {n : ℤ} (h0 : n < 0) (h1 : -2 ^ w ≤ n) :
    (((n : BitVec w).toNat : ℕ) : ℤ) = n + 2 ^ w := by
  rw [BitVec.toNat_intCast, Int.toNat_of_nonneg (Int.emod_nonneg _ (by positivity)), ← Int.add_emod_right,
    Int.emod_eq_of_lt (by linarith) (by linarith)]

theorem intCast_eq_of_eq_add {w : Nat} {a b m : ℤ} (h : b = a + 2 ^ w * m) : (a : BitVec w) = (b : BitVec w) := by
  apply BitVec.eq_of_toNat_eq
  rw [h, BitVec.toNat_intCast, BitVec.toNat_intCast, Int.add_mul_emod_self_left]

theorem cat_intCast (a b : ℤ) : cat (a : U64) (b : U64) = ((a * 2 ^ 64 + b % 2 ^ 64 : ℤ) : U128) := by
  apply BitVec.eq_of_toNat_eq
  rw [cat_toNat, BitVec.toNat_intCast, BitVec.toNat_intCast, BitVec.toNat_intCast]
  omega

theorem mul64_eq_intCast (a b : U64) : mul64 a b = ((a.toNat * b.toNat : ℤ) : U128) := by
  rw [← intCast_toNat (mul64 a b), mul64_toNat, Nat.cast_mul]

theorem add_one_eq_intCast (q : U64) : q + 1 = ((q.toNat + 1 : ℤ) : U64) := by
  rw [Int.cast_add, intCast_toNat, Int.cast_one]

/-! ### The corrections -/

/-- Correction 1: one divisor back, when the test says so. -/
def addBack {w : Nat} (decrement : Bool) (q : U64) (r d : BitVec w) : U64 × BitVec w :=
  if decrement then (q - 1, r + d) else (q, r)

/-- Correction 2: one divisor more, when the remainder still holds one. -/
def takeOnce {w : Nat} (q : U64) (r d : BitVec w) : U64 × BitVec w :=
  if d.ule r then (q + 1, r - d) else (q, r)

/-- The two corrections, which R218 and R220 share. -/
def correctGuess {w : Nat} (decrement : Bool) (q : U64) (r d : BitVec w) : U64 × BitVec w :=
  takeOnce (addBack decrement q r d).1 (addBack decrement q r d).2 d

theorem div2by1Datapath_eq (u : U128) (d v : U64) : div2by1Datapath u d v =
    let g := mul64 v (hi u) + u
    let r := lo u - (hi g + 1) * d
    correctGuess ((lo g).ult r) (hi g + 1) r d := rfl

theorem div3by2Datapath_eq (u : Limbs3) (d : U128) (v : U64) : div3by2Datapath u d v =
    let g := mul64 v u.u2 + cat u.u2 u.u1
    let r := cat (u.u1 - hi g * hi d) u.u0 - mul64 (lo d) (hi g) - d
    correctGuess ((lo g).ule (hi r)) (hi g + 1) r d := rfl

/-- Where the remainder `r` of a guess can lie, when it is kept modulo `b` and found negative by comparing it with the
threshold `m`. -/
structure GuessBounds (b d m r : ℤ) : Prop where
  /-- The guess is one too large at most. -/
  low : -d ≤ r
  /-- A negative remainder wraps to the threshold or above. -/
  wrapped : m - b ≤ r
  high : r < b
  /-- A remainder that is not negative and reaches the threshold leaves room for the divisor that is added back. -/
  room : m ≤ r → r + d < b

section Corrections

variable {w : Nat} {d : BitVec w} (hd : 2 ^ w ≤ 2 * d.toNat)
include hd

theorem divisor_pos : 0 < d.toNat := by
  have := Nat.two_pow_pos w
  omega

theorem takeOnce_intCast {u n r : ℤ} (hu : n * d.toNat + r = u) (h0 : 0 ≤ r) (h1 : r < 2 ^ w) :
    takeOnce (n : U64) (r : BitVec w) d = (((u / d.toNat : ℤ) : U64), ((u % d.toNat : ℤ) : BitVec w)) := by
  have hunique (m : ℤ) {s : ℤ} (hm : m * d.toNat + s = u) (hs : 0 ≤ s ∧ s < d.toNat) :
      u / d.toNat = m ∧ u % d.toNat = s :=
    (Int.ediv_emod_unique (Nat.cast_pos.2 (divisor_pos hd))).2 ⟨by linarith, hs⟩
  have hule : d.ule (r : BitVec w) = true ↔ (d.toNat : ℤ) ≤ r := by
    rw [BitVec.ule_iff_toNat_le, ← Nat.cast_le (α := ℤ), toNat_intCast_of_nonneg h0 h1]
  unfold takeOnce
  split
  case isTrue h =>
    obtain ⟨hq, hr⟩ := hunique (n + 1) (s := r - d.toNat) (by linarith) ⟨by linarith [hule.1 h], by linarith⟩
    rw [hq, hr, Int.cast_add, Int.cast_one, Int.cast_sub, intCast_toNat]
  case isFalse h =>
    obtain ⟨hq, hr⟩ := hunique n hu ⟨h0, not_le.1 (mt hule.2 h)⟩
    rw [hq, hr]

theorem correctGuess_intCast {decrement : Bool} {u n r m : ℤ} (hu : n * d.toNat + r = u)
    (hb : GuessBounds (2 ^ w) d.toNat m r) (hdec : decrement = true ↔ m ≤ ((r : BitVec w).toNat : ℤ)) :
    correctGuess decrement (n : U64) (r : BitVec w) d =
      (((u / d.toNat : ℤ) : U64), ((u % d.toNat : ℤ) : BitVec w)) := by
  obtain ⟨hlow, hwrapped, hhigh, hroom⟩ := hb
  have hlt : (d.toNat : ℤ) < 2 ^ w := by exact_mod_cast d.isLt
  unfold correctGuess addBack
  cases decrement
  case false =>
    have h0 : 0 ≤ r := by
      by_contra hneg
      have hr := toNat_intCast_of_neg (w := w) (not_le.1 hneg) (by linarith)
      exact Bool.false_ne_true (hdec.2 (by linarith))
    exact takeOnce_intCast hd hu h0 hhigh
  case true =>
    have hfit : r + d.toNat < 2 ^ w := by
      by_cases h0 : 0 ≤ r
      · exact hroom (toNat_intCast_of_nonneg h0 hhigh ▸ hdec.1 rfl)
      · linarith
    have hstep := takeOnce_intCast hd (n := n - 1) (r := r + d.toNat) (u := u) (by linarith) (by linarith) hfit
    rwa [Int.cast_sub, Int.cast_one, Int.cast_add, intCast_toNat] at hstep

/-- A guess within its bounds is corrected to the floor quotient and the remainder. -/
theorem correctGuess_toNat {decrement : Bool} {n r m : ℤ} {u : ℕ} (hu : n * d.toNat + r = u)
    (hb : GuessBounds (2 ^ w) d.toNat m r) (hdec : decrement = true ↔ m ≤ ((r : BitVec w).toNat : ℤ))
    (hfit : u < 2 ^ 64 * d.toNat) :
    (correctGuess decrement n r d).1.toNat = u / d.toNat ∧ (correctGuess decrement n r d).2.toNat = u % d.toNat := by
  rw [correctGuess_intCast hd hu hb hdec, ← Int.natCast_div, ← Int.natCast_mod, Int.cast_natCast, Int.cast_natCast]
  simp only [BitVec.natCast_eq_ofNat, BitVec.toNat_ofNat]
  exact ⟨Nat.mod_eq_of_lt (Nat.div_lt_of_lt_mul (by linarith)),
    Nat.mod_eq_of_lt ((Nat.mod_lt _ (divisor_pos hd)).trans d.isLt)⟩

end Corrections

/-! ### Guesses -/

/-- The error of a reciprocal: what its product with the divisor falls short of `N`. -/
theorem exists_reciprocal_error {v d N : Nat} (h : (2 ^ 64 + v) * d < N ∧ N ≤ (2 ^ 64 + v + 1) * d) :
    ∃ k : ℤ, (2 ^ 64 + (v : ℤ)) * d + k = N ∧ 0 < k ∧ k ≤ d := by
  obtain ⟨h0, h1⟩ := h
  zify at h0 h1
  exact ⟨N - (2 ^ 64 + v) * d, by ring, by linarith, by linarith⟩

/-- The multiply by the reciprocal, when it does not overflow. -/
theorem guess_toNat {v u1 : U64} {u : U128} (h : v.toNat * u1.toNat + u.toNat < 2 ^ 128) :
    (hi (mul64 v u1 + u)).toNat * 2 ^ 64 + (lo (mul64 v u1 + u)).toNat = v.toNat * u1.toNat + u.toNat := by
  rw [hi_lo_toNat, BitVec.toNat_add, mul64_toNat, Nat.mod_eq_of_lt h]

/-- A number below a weighted mean of two others is below one of them. -/
theorem lt_or_lt_of_weighted {b d r x y : ℤ} (h0 : 0 ≤ d) (h1 : d ≤ b) (h : b * r < (b - d) * x + d * y) :
    r < x ∨ r < y := by
  by_contra hle
  obtain ⟨hx, hy⟩ := not_or.1 hle
  have hx' : (b - d) * x ≤ (b - d) * r := mul_le_mul_of_nonneg_left (not_lt.1 hx) (by linarith)
  have hy' : d * y ≤ d * r := mul_le_mul_of_nonneg_left (not_lt.1 hy) h0
  linarith

/-! ### The 2-by-1 step (R217, R218) -/

/-- A high limb below the divisor does not overflow the multiply by the reciprocal. -/
theorem twoByOne_guess_lt {u1 u0 d v : Nat} (hv : (2 ^ 64 + v) * d < 2 ^ 128) (hu1 : u1 < d) (hu0 : u0 < 2 ^ 64) :
    v * u1 + (u1 * 2 ^ 64 + u0) < 2 ^ 128 := by
  have hmul := Nat.mul_le_mul_left (2 ^ 64 + v) (Nat.succ_le_of_lt hu1)
  rw [Nat.succ_eq_add_one] at hmul
  linarith

/-- 2^64 times the remainder of the guess is a sum of small parts, of which the last weighs the low limb of the guess. -/
theorem twoByOne_guessBounds {u : U128} {d v q1 q0 : U64} {k : ℤ}
    (hv : (2 ^ 64 + v.toNat : ℤ) * d.toNat + k = 2 ^ 128)
    (hk : 0 < k ∧ k ≤ d.toNat) (hu : (hi u).toNat < d.toNat)
    (hq : (2 ^ 64 + v.toNat : ℤ) * (hi u).toNat + (lo u).toNat = 2 ^ 64 * q1.toNat + q0.toNat) :
    GuessBounds (2 ^ 64) d.toNat (q0.toNat + 1) (u.toNat - (q1.toNat + 1) * d.toNat) := by
  have hd : (d.toNat : ℤ) < 2 ^ 64 := by exact_mod_cast d.isLt
  have hq0 : (q0.toNat : ℤ) < 2 ^ 64 := by exact_mod_cast q0.isLt
  have hu0 : ((lo u).toNat : ℤ) < 2 ^ 64 := by exact_mod_cast (lo u).isLt
  have hsplit : ((hi u).toNat : ℤ) * 2 ^ 64 + (lo u).toNat = u.toNat := by exact_mod_cast hi_lo_toNat u
  generalize hr : (u.toNat : ℤ) - (q1.toNat + 1) * d.toNat = r
  have hscaled : 2 ^ 64 * r =
      k * (hi u).toNat + (2 ^ 64 - d.toNat) * (lo u).toNat + d.toNat * q0.toNat - 2 ^ 64 * d.toNat := by
    linear_combination (-2 ^ 64) * hr + d.toNat * hq - (hi u).toNat * hv - 2 ^ 64 * hsplit
  have hku0 : 0 ≤ k * (hi u).toNat := mul_nonneg hk.1.le (by linarith)
  have hku1 : k * (hi u).toNat ≤ d.toNat * (d.toNat - 1) := mul_le_mul hk.2 (by linarith) (by linarith) (by linarith)
  have hdu0 : 0 ≤ (2 ^ 64 - d.toNat : ℤ) * (lo u).toNat := mul_nonneg (by linarith) (by linarith)
  have hdu1 : (2 ^ 64 - d.toNat : ℤ) * (lo u).toNat ≤ (2 ^ 64 - d.toNat) * (2 ^ 64 - 1) :=
    mul_le_mul_of_nonneg_left (by linarith) (by linarith)
  have hdq : 0 ≤ (d.toNat : ℤ) * q0.toNat := mul_nonneg (by linarith) (by linarith)
  have hgap : 0 < (2 ^ 64 - d.toNat : ℤ) * (2 ^ 64 - q0.toNat) := mul_pos (by linarith) (by linarith)
  have hupper : r < 2 ^ 64 - d.toNat ∨ r < q0.toNat :=
    lt_or_lt_of_weighted (b := 2 ^ 64) (d := d.toNat) (by linarith) hd.le (by linarith)
  constructor
  · linarith
  · linarith
  · rcases hupper with h | h <;> linarith
  · intro hm
    rcases hupper with h | h <;> linarith

theorem twoByOne_remainder_eq (u : U128) (d q : U64) :
    lo u - (q + 1) * d = ((u.toNat - (q.toNat + 1) * d.toNat : ℤ) : U64) := by
  have hlo : lo u = ((u.toNat : ℤ) : U64) := by
    apply BitVec.eq_of_toNat_eq
    rw [lo_toNat, BitVec.toNat_intCast]
    omega
  rw [hlo, add_one_eq_intCast, Int.cast_sub, Int.cast_mul, intCast_toNat d]

theorem div2by1Datapath_toNat {u : U128} {d v : U64} (hd : normalized d = true) (hu : (hi u).toNat < d.toNat)
    (hv : v.toNat = rec2by1Contract d) :
    (div2by1Datapath u d v).1.toNat = u.toNat / d.toNat ∧ (div2by1Datapath u d v).2.toNat = u.toNat % d.toNat := by
  have hcontract := (rec2by1Contract_iff hd).1 hv
  obtain ⟨k, hk, hk0⟩ := exists_reciprocal_error hcontract
  have hn := (normalized_iff d).1 hd
  have hsplit := hi_lo_toNat u
  have hlo := (lo u).isLt
  have hguess := guess_toNat (v := v) (u1 := hi u) (u := u) (hsplit ▸ twoByOne_guess_lt hcontract.1 hu hlo)
  rw [div2by1Datapath_eq]
  dsimp only
  generalize mul64 v (hi u) + u = g at *
  have hq : (2 ^ 64 + v.toNat) * (hi u).toNat + (lo u).toNat = 2 ^ 64 * (hi g).toNat + (lo g).toNat := by linarith
  have hb := twoByOne_guessBounds hk hk0 hu (by exact_mod_cast hq)
  rw [twoByOne_remainder_eq, add_one_eq_intCast]
  refine correctGuess_toNat (by omega) (by ring) hb ?_ (by omega)
  rw [BitVec.ult_iff_toNat_lt]
  omega

/-! ### The 3-by-2 step (R219, R220) -/

theorem Limbs3.toNat_eq (u : Limbs3) : u.toNat = (cat u.u2 u.u1).toNat * 2 ^ 64 + u.u0.toNat := by
  rw [cat_toNat, Limbs3.toNat]
  ring

theorem Limbs3.toNat_lt {u : Limbs3} {n : Nat} (h : (cat u.u2 u.u1).toNat < n) : u.toNat < 2 ^ 64 * n := by
  rw [Limbs3.toNat_eq]
  omega

section Rest

/-! The part of a 3-by-2 remainder that does not depend on the low limb of the guess is small. The bound is tight, so it
takes three cases: the high limbs of dividend and divisor differ, or they are equal and the divisor is, or is not, close
to 2^128. -/

variable {u2 u1 u0 d1 d0 d k : ℤ} (hd : d1 * 2 ^ 64 + d0 = d) (hu0 : u0 < 2 ^ 64)
include hd hu0

theorem threeByTwo_rest_lt_of_lt (hd0 : 0 ≤ d0) (hpos : 0 ≤ d) (hlt : d < 2 ^ 128) (hk : k ≤ d) (hu2 : 0 ≤ u2)
    (hu2d : u2 + 1 ≤ d1) (hu1 : u1 < 2 ^ 64) :
    2 ^ 64 * (k * u2 + (2 ^ 128 - d) * u1 + 2 ^ 64 * u0 - 2 ^ 64 * d) < (2 ^ 128 - d) * (2 ^ 128 - d) := by
  have hku : k * u2 ≤ d * (d1 - 1) := mul_le_mul hk (by linarith) hu2 hpos
  have hgu : (2 ^ 128 - d) * u1 ≤ (2 ^ 128 - d) * (2 ^ 64 - 1) := mul_le_mul_of_nonneg_left (by linarith) (by linarith)
  have hdd0 : 0 ≤ d * d0 := mul_nonneg hpos hd0
  have hsq : 2 ^ 64 * (d * d1) + d * d0 = d * d := by rw [← hd]; ring
  linarith

theorem threeByTwo_rest_lt_of_large_gap (hlt : d1 + 2 ≤ 2 ^ 64) (hd1 : 0 ≤ d1) (hd0 : d0 < 2 ^ 64) (hk : k ≤ d)
    (hu1 : u1 + 1 ≤ d0) :
    2 ^ 64 * (k * d1 + (2 ^ 128 - d) * u1 + 2 ^ 64 * u0 - 2 ^ 64 * d) < (2 ^ 128 - d) * (2 ^ 128 - d) := by
  have hku : k * d1 ≤ d * d1 := mul_le_mul_of_nonneg_right hk hd1
  have hgu : (2 ^ 128 - d) * u1 ≤ (2 ^ 128 - d) * (d0 - 1) := mul_le_mul_of_nonneg_left (by linarith) (by linarith)
  have hsq : 2 ^ 64 * (d * d1) + d * d0 = d * d := by rw [← hd]; ring
  have hdd0 : d * d0 = 2 ^ 64 * d1 * d0 + d0 * d0 := by rw [← hd]; ring
  have hgap : 0 ≤ (2 ^ 64 - 2 - d1) * (2 ^ 64 - d0) := mul_nonneg (by linarith) (by linarith)
  have hgap0 : 0 ≤ (2 ^ 64 - d0) * (2 ^ 64 - d0) := mul_self_nonneg _
  linarith

theorem threeByTwo_rest_lt_of_small_gap (hgap : 2 ^ 128 - d < 2 ^ 64) (hlt : d < 2 ^ 128) (hd1 : 0 ≤ d1)
    (hk : k ≤ 2 ^ 64 * (2 ^ 128 - d)) (hu1 : u1 + 1 ≤ d0) :
    2 ^ 64 * (k * d1 + (2 ^ 128 - d) * u1 + 2 ^ 64 * u0 - 2 ^ 64 * d) < (2 ^ 128 - d) * (2 ^ 128 - d) := by
  have hku : k * d1 ≤ 2 ^ 64 * (2 ^ 128 - d) * d1 := mul_le_mul_of_nonneg_right hk hd1
  have hgu : (2 ^ 128 - d) * u1 ≤ (2 ^ 128 - d) * (d0 - 1) := mul_le_mul_of_nonneg_left (by linarith) (by linarith)
  have hsq : 2 ^ 64 * (d * d1) + d * d0 = d * d := by rw [← hd]; ring
  have hdgap : 0 ≤ d * (2 ^ 64 - 1 - (2 ^ 128 - d)) := mul_nonneg (by linarith) (by linarith)
  have hgap0 : 0 ≤ (2 ^ 128 - d) * (2 ^ 128 - d) := mul_self_nonneg _
  linarith

end Rest

theorem threeByTwo_rest_lt {u : Limbs3} {d : U128} {v : U64} {k : ℤ}
    (hv : (2 ^ 64 + v.toNat : ℤ) * d.toNat + k = 2 ^ 192) (hk : 0 < k ∧ k ≤ d.toNat)
    (hu : (cat u.u2 u.u1).toNat < d.toNat) :
    2 ^ 64 * (k * u.u2.toNat + (2 ^ 128 - d.toNat) * u.u1.toNat + 2 ^ 64 * u.u0.toNat - 2 ^ 64 * d.toNat) <
      (2 ^ 128 - d.toNat : ℤ) * (2 ^ 128 - d.toNat) := by
  have hd : (d.toNat : ℤ) < 2 ^ 128 := by exact_mod_cast d.isLt
  have hd0 : ((lo d).toNat : ℤ) < 2 ^ 64 := by exact_mod_cast (lo d).isLt
  have hsplit : ((hi d).toNat : ℤ) * 2 ^ 64 + (lo d).toNat = d.toNat := by exact_mod_cast hi_lo_toNat d
  have hu1 : (u.u1.toNat : ℤ) < 2 ^ 64 := by exact_mod_cast u.u1.isLt
  have hu0 : (u.u0.toNat : ℤ) < 2 ^ 64 := by exact_mod_cast u.u0.isLt
  rw [cat_toNat] at hu
  zify at hu
  by_cases htop : u.u2 = hi d
  · rw [htop] at hu ⊢
    by_cases hgap : ((hi d).toNat : ℤ) + 2 ≤ 2 ^ 64
    · exact threeByTwo_rest_lt_of_large_gap hsplit hu0 hgap (by omega) hd0 hk.2 (by linarith)
    · have hvd : 0 ≤ (v.toNat : ℤ) * d.toNat := mul_nonneg (by omega) (by omega)
      exact threeByTwo_rest_lt_of_small_gap hsplit hu0 (by linarith) hd (by omega) (by linarith) (by linarith)
  · have hne : (u.u2.toNat : ℤ) ≠ (hi d).toNat := fun h => htop (BitVec.eq_of_toNat_eq (by exact_mod_cast h))
    exact threeByTwo_rest_lt_of_lt hsplit hu0 (by omega) (by omega) hd hk.2 (by omega) (by omega) hu1

/-- As for the 2-by-1 step; the parts other than the last are `threeByTwo_rest_lt`. -/
theorem threeByTwo_guessBounds {u : Limbs3} {d : U128} {v q1 q0 : U64} {k : ℤ}
    (hv : (2 ^ 64 + v.toNat : ℤ) * d.toNat + k = 2 ^ 192) (hk : 0 < k ∧ k ≤ d.toNat)
    (hu : (cat u.u2 u.u1).toNat < d.toNat)
    (hq : (2 ^ 64 + v.toNat : ℤ) * u.u2.toNat + u.u1.toNat = 2 ^ 64 * q1.toNat + q0.toNat) :
    GuessBounds (2 ^ 128) d.toNat (2 ^ 64 * q0.toNat) (u.toNat - (q1.toNat + 1) * d.toNat) := by
  have hd : (d.toNat : ℤ) < 2 ^ 128 := by exact_mod_cast d.isLt
  have hq0 : (q0.toNat : ℤ) < 2 ^ 64 := by exact_mod_cast q0.isLt
  have hrest := threeByTwo_rest_lt hv hk hu
  have hsplit : (u.u2.toNat * 2 ^ 128 + u.u1.toNat * 2 ^ 64 + u.u0.toNat : ℤ) = u.toNat := by
    rw [Limbs3.toNat]
    push_cast
    rfl
  generalize hr : (u.toNat : ℤ) - (q1.toNat + 1) * d.toNat = r
  have hscaled : 2 ^ 64 * r = k * u.u2.toNat + (2 ^ 128 - d.toNat) * u.u1.toNat + 2 ^ 64 * u.u0.toNat +
      d.toNat * q0.toNat - 2 ^ 64 * d.toNat := by
    linear_combination (-2 ^ 64) * hr + d.toNat * hq - u.u2.toNat * hv - 2 ^ 64 * hsplit
  have hku : 0 ≤ k * u.u2.toNat := mul_nonneg hk.1.le (by omega)
  have hdu : 0 ≤ (2 ^ 128 - d.toNat : ℤ) * u.u1.toNat := mul_nonneg (by linarith) (by omega)
  have hdq : 0 ≤ (d.toNat : ℤ) * q0.toNat := mul_nonneg (by omega) (by omega)
  have hgap : 0 < (2 ^ 128 - d.toNat : ℤ) * (2 ^ 64 - q0.toNat) := mul_pos (by linarith) (by linarith)
  have hupper : r < 2 ^ 128 - d.toNat ∨ r < 2 ^ 64 * q0.toNat :=
    lt_or_lt_of_weighted (b := 2 ^ 128) (d := d.toNat) (by omega) hd.le (by linarith)
  constructor
  · linarith
  · linarith
  · rcases hupper with h | h <;> linarith
  · intro hm
    rcases hupper with h | h <;> linarith

theorem threeByTwo_remainder_eq (u : Limbs3) (d : U128) (q : U64) :
    cat (u.u1 - q * hi d) u.u0 - mul64 (lo d) q - d = ((u.toNat - (q.toNat + 1) * d.toNat : ℤ) : U128) := by
  have hu1 : u.u1 - q * hi d = ((u.u1.toNat - q.toNat * (hi d).toNat : ℤ) : U64) := by
    rw [Int.cast_sub, Int.cast_mul, intCast_toNat, intCast_toNat, intCast_toNat]
  have hu0 : (u.u0.toNat : ℤ) % 2 ^ 64 = u.u0.toNat := by
    have := u.u0.isLt
    omega
  calc cat (u.u1 - q * hi d) u.u0 - mul64 (lo d) q - d
      = (((u.u1.toNat - q.toNat * (hi d).toNat) * 2 ^ 64 + u.u0.toNat - (lo d).toNat * q.toNat - d.toNat : ℤ) :
          U128) := by
        rw [hu1, ← intCast_toNat u.u0, cat_intCast, mul64_eq_intCast, ← intCast_toNat d, ← Int.cast_sub, ← Int.cast_sub,
          intCast_toNat, intCast_toNat, hu0]
    _ = ((u.toNat - (q.toNat + 1) * d.toNat : ℤ) : U128) := by
        apply intCast_eq_of_eq_add (m := u.u2.toNat)
        rw [← hi_lo_toNat d, Limbs3.toNat]
        push_cast
        ring

/-- Below the divisor, the high limbs of the dividend do not overflow the multiply by the reciprocal either. -/
theorem threeByTwo_guess_lt {u2 u1 d1 d0 v : Nat} (hv : (2 ^ 64 + v) * (d1 * 2 ^ 64 + d0) < 2 ^ 192)
    (hu : u2 * 2 ^ 64 + u1 < d1 * 2 ^ 64 + d0) (hu1 : u1 < 2 ^ 64) (hd0 : d0 < 2 ^ 64) :
    v * u2 + (u2 * 2 ^ 64 + u1) < 2 ^ 128 := by
  have hvd0 := Nat.zero_le (v * d0)
  obtain hlt | ⟨rfl, hlt⟩ : u2 < d1 ∨ u2 = d1 ∧ u1 < d0 := by omega
  · exact twoByOne_guess_lt (by linarith) hlt hu1
  · linarith

theorem div3by2Datapath_toNat {u : Limbs3} {d : U128} {v : U64} (hd : normalized (hi d) = true)
    (hu : (cat u.u2 u.u1).toNat < d.toNat) (hv : v.toNat = rec3by2Contract d) :
    (div3by2Datapath u d v).1.toNat = u.toNat / d.toNat ∧ (div3by2Datapath u d v).2.toNat = u.toNat % d.toNat := by
  have hcontract := (rec3by2Contract_iff hd).1 hv
  obtain ⟨k, hk, hk0⟩ := exists_reciprocal_error hcontract
  have hn := (normalized_iff (hi d)).1 hd
  have hsplit := hi_lo_toNat d
  have hcat := cat_toNat u.u2 u.u1
  have hguess := guess_toNat (v := v) (u1 := u.u2) (u := cat u.u2 u.u1) (by
    rw [hcat] at hu ⊢
    rw [← hsplit] at hcontract hu
    exact threeByTwo_guess_lt hcontract.1 hu u.u1.isLt (lo d).isLt)
  rw [hcat] at hguess
  rw [div3by2Datapath_eq]
  dsimp only
  generalize mul64 v u.u2 + cat u.u2 u.u1 = g at *
  have hq : (2 ^ 64 + v.toNat) * u.u2.toNat + u.u1.toNat = 2 ^ 64 * (hi g).toNat + (lo g).toNat := by linarith
  have hb := threeByTwo_guessBounds hk hk0 hu (by exact_mod_cast hq)
  rw [threeByTwo_remainder_eq, add_one_eq_intCast]
  refine correctGuess_toNat (by omega) (by ring) hb ?_ (Limbs3.toNat_lt hu)
  rw [BitVec.ule_iff_toNat_le, hi_toNat]
  omega

end Sys2Proof.Machine
end

section
/-! SUPPORT. The two-limb reciprocal (45_divide.md R216): the reciprocal of the high limb is first corrected for the low
limb of the divisor at the weight of 2^64, then for the product with the low limb. -/

namespace Sys2Proof.Machine

/-- The first correction: `p` is what the product of `v` and the high limb, and the low limb, exceed 2^128 - 2^64 by. -/
def highCorrection (v : U64) (d : U128) : U64 × U64 :=
  let p := hi d * v + lo d
  if p.ult (lo d) then rec3by2First (hi d) v p else (v, p)

/-- The second correction, by the product of `v` and the low limb. -/
def lowCorrection (v p : U64) (d : U128) : U64 :=
  let t := mul64 v (lo d)
  let p := p + hi t
  if p.ult (hi t) then
    if (hi d).ule p && ((hi d).ult p || (lo d).ule (lo t)) then v - 1 - 1 else v - 1
  else v

theorem rec3by2From_eq (v : U64) (d : U128) :
    rec3by2From v d = lowCorrection (highCorrection v d).1 (highCorrection v d).2 d := rfl

/-- What the first correction leaves: `v` is the largest with which the high part stays below 2^128. -/
structure HighExact (d : U128) (v p : U64) : Prop where
  total : (2 ^ 64 + v.toNat) * (hi d).toNat + (lo d).toNat + 2 ^ 64 = 2 ^ 128 + p.toNat
  largest : 2 ^ 64 ≤ p.toNat + (hi d).toNat

/-- The carry detected at the second operand of the sum. -/
theorem add_ult_right_toNat (x y : U64) : (x + y).toNat + 2 ^ 64 * ((x + y).ult y).toNat = x.toNat + y.toNat := by
  rw [BitVec.add_comm, add_ult_toNat, Nat.add_comm]

theorem sub_one_toNat {x : U64} (h : 1 ≤ x.toNat) : (x - 1).toNat + 1 = x.toNat := by
  rw [BitVec.toNat_sub, one_toNat]
  omega

/-- After a carry `v` is too large, by one or by two; it is large enough for that. -/
theorem rec3by2First_highExact {v p : U64} {d : U128} (hn : 2 ^ 63 ≤ (hi d).toNat)
    (hp : (2 ^ 64 + v.toNat) * (hi d).toNat + (lo d).toNat = 2 ^ 128 + p.toNat) (hlt : p.toNat < (lo d).toNat) :
    HighExact d (rec3by2First (hi d) v p).1 (rec3by2First (hi d) v p).2 := by
  have hv1 : 1 ≤ v.toNat := by
    by_contra h
    rw [Nat.lt_one_iff.1 (not_le.1 h)] at hp
    omega
  rw [← sub_one_toNat hv1] at hp
  unfold rec3by2First
  dsimp only
  split
  case isTrue hle =>
    rw [BitVec.ule_iff_toNat_le] at hle
    have hv2 : 1 ≤ (v - 1).toNat := by
      by_contra h
      rw [Nat.lt_one_iff.1 (not_le.1 h)] at hp
      omega
    have hr : (p - hi d - hi d).toNat + 2 * (hi d).toNat = p.toNat + 2 ^ 64 := by
      rw [BitVec.toNat_sub, BitVec.toNat_sub]
      omega
    rw [← sub_one_toNat hv2] at hp
    constructor <;> linarith
  case isFalse hgt =>
    rw [BitVec.ule_iff_toNat_le, not_le] at hgt
    have hr : (p - hi d).toNat + (hi d).toNat = p.toNat + 2 ^ 64 := by
      rw [BitVec.toNat_sub]
      omega
    constructor <;> linarith

theorem highCorrection_highExact {v : U64} {d : U128} (hd : normalized (hi d) = true)
    (hv : v.toNat = rec2by1Contract (hi d)) : HighExact d (highCorrection v d).1 (highCorrection v d).2 := by
  have hn := (normalized_iff (hi d)).1 hd
  obtain ⟨hv0, hv1⟩ := (rec2by1Contract_iff hd).1 hv
  have hmul : (hi d * v).toNat + 2 ^ 128 = (2 ^ 64 + v.toNat) * (hi d).toNat + 2 ^ 64 := by
    rw [BitVec.toNat_mul, Nat.mul_comm]
    simp only [add_mul] at hv0 hv1 ⊢
    omega
  have hsum := add_ult_right_toNat (hi d * v) (lo d)
  unfold highCorrection
  dsimp only
  split
  case isTrue hcarry =>
    rw [hcarry, Bool.toNat_true] at hsum
    exact rec3by2First_highExact hn (by linarith) ((BitVec.ult_iff_toNat_lt ..).1 hcarry)
  case isFalse hcarry =>
    rw [Bool.eq_false_of_not_eq_true hcarry, Bool.toNat_false] at hsum
    constructor <;> linarith

/-- The limb test of R216 compares the divisor with the number `{p, t}`. -/
theorem divisor_le_limbs_iff (d : U128) (p t : U64) :
    ((hi d).ule p && ((hi d).ult p || (lo d).ule t)) = true ↔ d.toNat ≤ p.toNat * 2 ^ 64 + t.toNat := by
  rw [← hi_lo_toNat d, Bool.and_eq_true, Bool.or_eq_true, BitVec.ule_iff_toNat_le, BitVec.ult_iff_toNat_lt,
    BitVec.ule_iff_toNat_le]
  omega

theorem lowCorrection_exact {v p : U64} {d : U128} (hn : 2 ^ 63 ≤ (hi d).toNat) (h : HighExact d v p) :
    (2 ^ 64 + (lowCorrection v p d).toNat) * d.toNat < 2 ^ 192 ∧
      2 ^ 192 ≤ (2 ^ 64 + (lowCorrection v p d).toNat + 1) * d.toNat := by
  obtain ⟨hhigh, hlargest⟩ := h
  have hd := hi_lo_toNat d
  have ht := (hi_lo_toNat (mul64 v (lo d))).trans (mul64_toNat v (lo d))
  have hlo := (lo (mul64 v (lo d))).isLt
  have hp := (p + hi (mul64 v (lo d))).isLt
  have hsum := add_ult_right_toNat p (hi (mul64 v (lo d)))
  have htotal : (2 ^ 64 + v.toNat) * d.toNat + 2 ^ 128 =
      2 ^ 192 + p.toNat * 2 ^ 64 + (hi (mul64 v (lo d))).toNat * 2 ^ 64 + (lo (mul64 v (lo d))).toNat := by
    rw [← hd]
    linarith
  unfold lowCorrection
  dsimp only
  generalize mul64 v (lo d) = t at *
  split
  case isTrue hcarry =>
    rw [hcarry, Bool.toNat_true] at hsum
    have hv1 : 1 ≤ v.toNat := by
      by_contra h
      rw [Nat.lt_one_iff.1 (not_le.1 h)] at htotal
      omega
    rw [← sub_one_toNat hv1] at htotal
    split
    case isTrue htwo =>
      rw [divisor_le_limbs_iff] at htwo
      have hv2 : 1 ≤ (v - 1).toNat := by
        by_contra h
        rw [Nat.lt_one_iff.1 (not_le.1 h)] at htotal
        omega
      rw [← sub_one_toNat hv2] at htotal
      constructor <;> linarith
    case isFalse hone =>
      rw [divisor_le_limbs_iff, not_le] at hone
      constructor <;> linarith
  case isFalse hcarry =>
    rw [Bool.eq_false_of_not_eq_true hcarry, Bool.toNat_false] at hsum
    constructor <;> linarith

theorem rec3by2From_toNat {d : U128} {v : U64} (hd : normalized (hi d) = true)
    (hv : v.toNat = rec2by1Contract (hi d)) : (rec3by2From v d).toNat = rec3by2Contract d := by
  rw [rec3by2From_eq, rec3by2Contract_iff hd]
  exact lowCorrection_exact ((normalized_iff _).1 hd) (highCorrection_highExact hd hv)

theorem rec3by2Datapath_toNat {d : U128} (hd : normalized (hi d) = true) :
    (rec3by2Datapath d).toNat = rec3by2Contract d :=
  rec3by2From_toNat hd (rec2by1Datapath_toNat hd)

end Sys2Proof.Machine
end

section
/-! SUPPORT. The divider's dispatch (45_divide.md R221 to R227): each path calls its units inside their preconditions, and
its answer is the floor quotient and the remainder. -/

namespace Sys2Proof.Machine

/-! ### The normalized dividend (R211) -/

theorem normalizeDividend_low (x : U128) {n : Nat} (h : n < 64) :
    cat (normalizeDividend x n).u1 (normalizeDividend x n).u0 = x <<< n := by
  unfold normalizeDividend
  split
  case isTrue h0 => rw [h0, BitVec.shiftLeft_zero, cat_hi_lo]
  case isFalse => exact cat_shiftLeft_of_lt x h

theorem normalizeDividend_high (x : U128) {n : Nat} (h : n < 64) :
    (normalizeDividend x n).u2.toNat = x.toNat * 2 ^ n / 2 ^ 128 := by
  unfold normalizeDividend
  split
  case isTrue h0 =>
    rw [h0, pow_zero, mul_one, Nat.div_eq_of_lt x.isLt]
    rfl
  case isFalse =>
    have hsplit : 2 ^ 128 = 2 ^ n * 2 ^ (128 - n) := by rw [← pow_add, Nat.add_sub_cancel' (by omega)]
    have hexp : 64 + (64 - n) = 128 - n := by omega
    rw [BitVec.toNat_ushiftRight, Nat.shiftRight_eq_div_pow, hi_toNat, Nat.div_div_eq_div_mul, ← pow_add, hexp, hsplit,
      Nat.mul_comm x.toNat, Nat.mul_div_mul_left _ _ (Nat.two_pow_pos n)]

/-- No bit of the dividend is lost. -/
theorem normalizeDividend_toNat (x : U128) {n : Nat} (h : n < 64) :
    (normalizeDividend x n).toNat = x.toNat * 2 ^ n := by
  have hlow := congrArg BitVec.toNat (normalizeDividend_low x h)
  rw [cat_toNat, shiftLeft_toNat] at hlow
  rw [Limbs3.toNat, add_assoc, hlow, normalizeDividend_high x h]
  exact Nat.div_add_mod' ..

/-- The third limb is below the top limb of every normalized divisor (R227). -/
theorem normalizeDividend_high_lt (x : U128) {n : Nat} (h : n < 64) : (normalizeDividend x n).u2.toNat < 2 ^ 63 := by
  rw [normalizeDividend_high x h]
  apply Nat.div_lt_of_lt_mul
  calc x.toNat * 2 ^ n < 2 ^ 128 * 2 ^ n := Nat.mul_lt_mul_of_pos_right x.isLt (Nat.two_pow_pos n)
    _ ≤ 2 ^ 128 * 2 ^ 63 := Nat.mul_le_mul_left _ (Nat.pow_le_pow_right (by decide) (by omega))

/-! ### The units inside their preconditions (R213, R215, R217, R219) -/

theorem rec2by1_of_normalized {d : U64} (hd : normalized d = true) : rec2by1 d = some (rec2by1Datapath d) := if_pos hd

theorem rec3by2_of_normalized {d : U128} (hd : normalized (hi d) = true) : rec3by2 d = some (rec3by2Datapath d) :=
  if_pos hd

theorem div2by1_of_precondition {u : U128} {d v : U64} (hd : normalized d = true) (hu : (hi u).toNat < d.toNat)
    (hv : rec2by1 d = some v) : div2by1 u d v = some (div2by1Datapath u d v) := by
  have hlt : (hi u).ult d = true := (BitVec.ult_iff_toNat_lt ..).2 hu
  unfold div2by1
  rw [hd, hlt, hv]
  simp only [Bool.and_self, beq_self_eq_true, if_true]

theorem div3by2_of_precondition {u : Limbs3} {d : U128} {v : U64} (hd : normalized (hi d) = true)
    (hu : (cat u.u2 u.u1).toNat < d.toNat) (hv : rec3by2 d = some v) :
    div3by2 u d v = some (div3by2Datapath u d v) := by
  have hlt : (cat u.u2 u.u1).ult d = true := (BitVec.ult_iff_toNat_lt ..).2 hu
  unfold div3by2
  rw [hd, hlt, hv]
  simp only [Bool.and_self, beq_self_eq_true, if_true]

theorem div2by1_answers {u : U128} {d : U64} (hd : normalized d = true) (hu : (hi u).toNat < d.toNat) :
    ∃ p, div2by1 u d (rec2by1Datapath d) = some p ∧ p.1.toNat = u.toNat / d.toNat ∧ p.2.toNat = u.toNat % d.toNat :=
  ⟨_, div2by1_of_precondition hd hu (rec2by1_of_normalized hd),
    div2by1Datapath_toNat hd hu (rec2by1Datapath_toNat hd)⟩

theorem div3by2_answers {u : Limbs3} {d : U128} (hd : normalized (hi d) = true)
    (hu : (cat u.u2 u.u1).toNat < d.toNat) :
    ∃ p, div3by2 u d (rec3by2Datapath d) = some p ∧ p.1.toNat = u.toNat / d.toNat ∧ p.2.toNat = u.toNat % d.toNat :=
  ⟨_, div3by2_of_precondition hd hu (rec3by2_of_normalized hd),
    div3by2Datapath_toNat hd hu (rec3by2Datapath_toNat hd)⟩

/-! ### The paths -/

/-- The floor quotient and the remainder (R226). -/
def quotientAndRemainder (x y : U128) : U128 × U128 :=
  (BitVec.ofNat 128 (x.toNat / y.toNat), BitVec.ofNat 128 (x.toNat % y.toNat))

theorem pair_eq_quotientAndRemainder {x y q r : U128} (hq : q.toNat = x.toNat / y.toNat)
    (hr : r.toNat = x.toNat % y.toNat) : (q, r) = quotientAndRemainder x y := by
  rw [quotientAndRemainder, ← hq, ← hr, BitVec.ofNat_toNat, BitVec.ofNat_toNat, BitVec.setWidth_eq, BitVec.setWidth_eq]

/-- Two chained division steps in radix `b`, the remainder of the first feeding the second. -/
theorem chained_division (u1 u0 b : Nat) {d : Nat} (hd : 0 < d) :
    (u1 * b + u0) / d = u1 / d * b + (u1 % d * b + u0) / d ∧ (u1 * b + u0) % d = (u1 % d * b + u0) % d := by
  have hsplit : u1 * b + u0 = u1 % d * b + u0 + d * (u1 / d * b) := by
    conv_lhs => rw [← Nat.mod_add_div u1 d]
    ring
  rw [hsplit, Nat.add_mul_div_left _ _ hd, Nat.add_mul_mod_self_left, Nat.add_comm]
  exact ⟨rfl, rfl⟩

/-- R222: the shift by the leading zeros cancels in the quotient, and is undone on the remainder. -/
theorem narrowPath_eq {x y : U128} (hy : y ≠ 0) (hhi : hi y = 0) :
    narrowPath x y = some (quotientAndRemainder x y) := by
  have hlo : (lo y).toNat = y.toNat := by
    rw [← hi_lo_toNat y, hhi]
    simp
  have hlo0 : lo y ≠ 0 := fun h => hy (BitVec.eq_of_toNat_eq (by rw [← hlo, h]; rfl))
  have hlsh : clz64 (lo y) < 64 := Nat.lt_succ_of_le (clz64_bounds hlo0).1
  obtain ⟨hlow, hhigh⟩ := clz64_normalizes hlo0
  have hxn := normalizeDividend_toNat x hlsh
  have hex := normalizeDividend_high_lt x hlsh
  unfold narrowPath
  dsimp only
  generalize clz64 (lo y) = lsh at *
  generalize normalizeDividend x lsh = xn at *
  have hyn : (lo y <<< lsh).toNat = y.toNat * 2 ^ lsh := by
    rw [BitVec.toNat_shiftLeft, Nat.shiftLeft_eq, Nat.mod_eq_of_lt hhigh, hlo]
  rw [hlo, ← hyn] at hlow
  have hd := (normalized_iff _).2 hlow
  generalize lo y <<< lsh = yn at *
  have hpos : 0 < yn.toNat := by omega
  obtain ⟨⟨q1, r1⟩, h1, hq1, hr1⟩ := div2by1_answers (u := cat xn.u2 xn.u1) hd (by rw [hi_cat]; omega)
  have hr1lt : r1.toNat < yn.toNat := hr1 ▸ Nat.mod_lt _ hpos
  obtain ⟨⟨q0, r0⟩, h0, hq0, hr0⟩ := div2by1_answers (u := cat r1 xn.u0) hd (by rwa [hi_cat])
  rw [rec2by1_of_normalized hd]
  simp only [h1, h0]
  rw [cat_toNat, hr1] at hq0 hr0
  obtain ⟨hq, hr⟩ := chained_division (cat xn.u2 xn.u1).toNat xn.u0.toNat (2 ^ 64) hpos
  rw [← Limbs3.toNat_eq, hxn, hyn] at hq hr
  congr 1
  apply pair_eq_quotientAndRemainder
  · rw [cat_toNat, hq1, hq0, hyn, ← hq, Nat.mul_div_mul_right _ _ (Nat.two_pow_pos lsh)]
  · rw [cat_zero_toNat, BitVec.toNat_ushiftRight, Nat.shiftRight_eq_div_pow, hr0, hyn, ← hr, Nat.mul_mod_mul_right,
      Nat.mul_div_cancel _ (Nat.two_pow_pos lsh)]

/-- R223, and the quotient 0 of R224. -/
theorem zero_quotient_eq {x y : U128} (h : x.toNat < y.toNat) : (zero128, x) = quotientAndRemainder x y :=
  pair_eq_quotientAndRemainder ((congrArg BitVec.toNat zero128_eq).trans (Nat.div_eq_of_lt h).symm)
    (Nat.mod_eq_of_lt h).symm

theorem oneBit_test_iff {x y : U128} (h : (hi y).toNat ≤ (hi x).toNat) :
    ((hi y).ult (hi x) || (lo y).ule (lo x)) = true ↔ y.toNat ≤ x.toNat := by
  rw [← hi_lo_toNat y, ← hi_lo_toNat x, Bool.or_eq_true, BitVec.ult_iff_toNat_lt, BitVec.ule_iff_toNat_le]
  omega

/-- R224: a divisor of 2^127 at least goes into a dividend once at most. -/
theorem oneBitPath_eq {x y : U128} (hle : (hi y).toNat ≤ (hi x).toNat) (hy : 2 ^ 63 ≤ (hi y).toNat) :
    oneBitPath x y = quotientAndRemainder x y := by
  have hlarge : 2 ^ 127 ≤ y.toNat := by
    rw [hi_toNat] at hy
    omega
  unfold oneBitPath
  split
  case isTrue h =>
    rw [oneBit_test_iff hle] at h
    have hone : x.toNat / y.toNat = 1 := Nat.div_eq_of_lt_le (by omega) (by omega)
    apply pair_eq_quotientAndRemainder
    · rw [cat_zero_toNat, hone, one_toNat]
    · rw [BitVec.toNat_sub_of_le h, Nat.mod_eq_sub_mod h, Nat.mod_eq_of_lt (by omega)]
  case isFalse h =>
    rw [oneBit_test_iff hle, not_le] at h
    exact zero_quotient_eq h

/-- R225, as the narrow path, with one step. -/
theorem widePath_eq {x y : U128} (hy : hi y ≠ 0) : widePath x y = some (quotientAndRemainder x y) := by
  have hlsh : clz64 (hi y) < 64 := Nat.lt_succ_of_le (clz64_bounds hy).1
  obtain ⟨hlow, hhigh⟩ := clz64_hi_normalizes hy
  have hxn := normalizeDividend_toNat x hlsh
  have hex := normalizeDividend_high_lt x hlsh
  unfold widePath
  dsimp only
  rw [cat_shiftLeft_of_lt y hlsh]
  generalize clz64 (hi y) = lsh at *
  generalize normalizeDividend x lsh = xn at *
  have hyn : (y <<< lsh).toNat = y.toNat * 2 ^ lsh := by
    rw [shiftLeft_toNat, Nat.mod_eq_of_lt hhigh]
  rw [← hyn, ← hi_toNat] at hlow
  have hd := (normalized_iff _).2 hlow
  generalize y <<< lsh = yn at *
  have hxyn : (cat xn.u2 xn.u1).toNat < yn.toNat := by
    rw [cat_toNat, ← hi_lo_toNat yn]
    omega
  obtain ⟨⟨q, r⟩, h, hq, hr⟩ := div3by2_answers (u := xn) hd hxyn
  rw [rec3by2_of_normalized hd]
  simp only [h]
  congr 1
  apply pair_eq_quotientAndRemainder
  · rw [cat_zero_toNat, hq, hyn, hxn, Nat.mul_div_mul_right _ _ (Nat.two_pow_pos lsh)]
  · rw [ushiftRight_toNat, hr, hyn, hxn, Nat.mul_mod_mul_right, Nat.mul_div_cancel _ (Nat.two_pow_pos lsh)]

theorem divremDatapath_eq {x y : U128} (hy : y ≠ 0) : divremDatapath x y = some (quotientAndRemainder x y) := by
  unfold divremDatapath
  rw [zero128_eq, if_neg hy, ← zero128_eq]
  split_ifs with hnarrow hearly hbit
  · exact narrowPath_eq hy hnarrow
  · rw [BitVec.ult_iff_toNat_lt, hi_toNat, hi_toNat] at hearly
    rw [zero_quotient_eq (Nat.lt_of_div_lt_div hearly)]
  · rw [BitVec.ult_iff_toNat_lt, not_lt] at hearly
    obtain ⟨-, hlow, -⟩ := clz64_bounds hnarrow
    rw [hbit] at hlow
    rw [oneBitPath_eq hearly hlow]
  · exact widePath_eq hnarrow

end Sys2Proof.Machine
end

section
/-! SUPPORT. What the division commands do (45_divide.md section 5) when the divisor is zero and when it is not. -/

namespace Sys2Proof.Machine

variable {s : State} {rd rd2 a b : Reg}

theorem divrem_quotient_toNat (x y : U128) : (divrem x y).1.toNat = x.toNat / y.toNat := BitVec.toNat_udiv

theorem divrem_remainder_toNat (x y : U128) : (divrem x y).2.toNat = x.toNat % y.toNat := BitVec.toNat_umod

theorem zext128_scalar_toNat (s : State) (r : Reg) : (zext128 (s.scalar r)).toNat = s.loNum r :=
  (zext128_toNat _).trans (s.scalar_toNat r)

/-! ### A divisor that is not zero -/

theorem reg_ne_zero128 (h : s.num b ≠ 0) : s.reg b ≠ zero128 := fun he => h (by rw [State.num, he]; rfl)

theorem zext128_scalar_ne_zero128 (h : s.loNum b ≠ 0) : zext128 (s.scalar b) ≠ zero128 :=
  fun he => h (by rw [← zext128_scalar_toNat, he]; rfl)

theorem exec_divrem (h : s.num b ≠ 0) : exec (.divrem rd rd2 a b) s =
    finishTwo rd rd2 (divrem (s.reg a) (s.reg b)).1 (divrem (s.reg a) (s.reg b)).2 s := by
  simp only [exec, execDivrem, divideThen_nonzero _ _ _ _ _ (reg_ne_zero128 h)]

theorem exec_div (h : s.num b ≠ 0) : exec (.div rd a b) s = finish rd (divrem (s.reg a) (s.reg b)).1 s := by
  simp only [exec, execDiv, divideThen_nonzero _ _ _ _ _ (reg_ne_zero128 h)]

theorem exec_mod (h : s.num b ≠ 0) : exec (.mod rd a b) s = finish rd (divrem (s.reg a) (s.reg b)).2 s := by
  simp only [exec, execMod, divideThen_nonzero _ _ _ _ _ (reg_ne_zero128 h)]

theorem exec_divS (h : s.loNum b ≠ 0) :
    exec (.divS rd a b) s = finish rd (divrem (s.reg a) (zext128 (s.scalar b))).1 s := by
  simp only [exec, execDivS, divideThen_nonzero _ _ _ _ _ (zext128_scalar_ne_zero128 h)]

theorem exec_modS (h : s.loNum b ≠ 0) :
    exec (.modS rd a b) s = finish rd (divrem (s.reg a) (zext128 (s.scalar b))).2 s := by
  simp only [exec, execModS, divideThen_nonzero _ _ _ _ _ (zext128_scalar_ne_zero128 h)]

/-! ### A zero divisor (R221) -/

variable {i : Instr}

theorem exec_of_zero_divisor (h : s.num b = 0) (hi : i ∈ [Instr.divrem rd rd2 a b, .div rd a b, .mod rd a b]) :
    exec i s = .next (s.raise .divByZero (encode i)) := by
  have hzero : s.reg b = zero128 := BitVec.eq_of_toNat_eq h
  simp only [List.mem_cons, List.not_mem_nil, or_false] at hi
  obtain rfl | rfl | rfl := hi <;> simp only [exec, execDivrem, execDiv, execMod, hzero, divideThen_zero]

theorem exec_of_zero_scalar_divisor (h : s.loNum b = 0) (hi : i ∈ [Instr.divS rd a b, .modS rd a b]) :
    exec i s = .next (s.raise .divByZero (encode i)) := by
  have hzero : zext128 (s.scalar b) = zero128 := BitVec.eq_of_toNat_eq ((zext128_scalar_toNat s b).trans h)
  simp only [List.mem_cons, List.not_mem_nil, or_false] at hi
  obtain rfl | rfl := hi <;> simp only [exec, execDivS, execModS, hzero, divideThen_zero]

/-- A command that raises with its own encoding records the pending word. -/
theorem faultEntry_of_exec_raise {w : Cmd} {c : Cause} (hp : s.pend = some w) (hd : decode w = .ok i)
    (he : exec i s = .next (s.raise c (encode i))) : ∃ t, coreStep s = .next t ∧ FaultEntry c w s t := by
  rw [coreStep_command s w i hp hd, he, encodeOfDecodeIsTheWord w i hd]
  exact ⟨_, rfl, raise_faultEntry s c w⟩

end Sys2Proof.Machine
end

section
/-! SUPPORT. The statements about division (45_divide.md), settled. -/

namespace Sys2Proof.Machine

/-- Settles O25: the count goes down from bit 63 to the first 1, by induction on the number of bits left. -/
theorem leadingZeroCountContract : Obligations.LeadingZeroCountContract :=
  ⟨by decide, fun _ => clz64_bounds⟩

/-- Settles O26: the listed table is the list of the formula's values. -/
theorem seedTableFollowsItsFormula : Obligations.SeedTableFollowsItsFormula :=
  ⟨by simp [recipTable_eq], fun _ => recipEntry_eq, fun _ => seedIndex_eq⟩

/-- Settles O27: each Newton step about squares the error, the third estimate is at most one too small, and the last
correction finds out which. -/
theorem oneLimbReciprocalMeetsContract : Obligations.OneLimbReciprocalMeetsContract :=
  fun _ => rec2by1Datapath_toNat

/-- Settles O28: after the two corrections the reciprocal is the largest whose product with `d` stays below 2^192. -/
theorem twoLimbReciprocalMeetsContract : Obligations.TwoLimbReciprocalMeetsContract :=
  fun _ _ => rec3by2From_toNat

/-- Settles O29: the guess is at most one too large or too small, and the corrections bring it to the quotient. -/
theorem twoByOneStepMeetsContract : Obligations.TwoByOneStepMeetsContract :=
  fun _ _ _ => div2by1Datapath_toNat

/-- Settles O30, as the 2-by-1 step. -/
theorem threeByTwoStepMeetsContract : Obligations.ThreeByTwoStepMeetsContract :=
  fun _ _ _ => div3by2Datapath_toNat

/-- Settles O31, path by path. -/
theorem dividerDatapathMeetsContract : Obligations.DividerDatapathMeetsContract :=
  fun _ _ => divremDatapath_eq

/-- Settles O32: with a divisor that is not zero each command is one `finish`, or the `finishTwo` of DIVREM. -/
theorem divisionWrites : Obligations.DivisionWrites := by
  refine fun s rd rd2 a b => ⟨fun h => ⟨?_, ?_, ?_⟩, fun h => ⟨?_, ?_⟩⟩
  · obtain ⟨t, ht, hr, hq, hframe⟩ :=
      finishTwo_spec rd rd2 (divrem (s.reg a) (s.reg b)).1 (divrem (s.reg a) (s.reg b)).2 s
    refine ⟨t, (exec_divrem h).trans ht, ?_, fun hne => ?_, hframe⟩
    · exact (congrArg BitVec.toNat hr).trans (divrem_remainder_toNat ..)
    · exact (congrArg BitVec.toNat (hq hne)).trans (divrem_quotient_toNat ..)
  · exact writesNat_of_finish (exec_div h) (divrem_quotient_toNat ..)
  · exact writesNat_of_finish (exec_mod h) (divrem_remainder_toNat ..)
  · exact writesNat_of_finish (exec_divS h) (zext128_scalar_toNat s b ▸ divrem_quotient_toNat ..)
  · exact writesNat_of_finish (exec_modS h) (zext128_scalar_toNat s b ▸ divrem_remainder_toNat ..)

/-- Settles O33: each command raises with its own encoding, which is the pending word. -/
theorem zeroDivisorFaults : Obligations.ZeroDivisorFaults :=
  fun _ _ _ _ _ _ _ hp hd =>
    ⟨fun h hi => faultEntry_of_exec_raise hp hd (exec_of_zero_divisor h hi),
      fun h hi => faultEntry_of_exec_raise hp hd (exec_of_zero_scalar_divisor h hi)⟩

/-- Settles O34: the multiplier, the adder and the comparison work on the numbers, and `{0, s}` is the number `s`. -/
theorem divisionRoundTrip : Obligations.DivisionRoundTrip := by
  refine ⟨fun x y hy => ⟨?_, ?_⟩, fun s rd a b c hc hb => ?_⟩
  · apply BitVec.eq_of_toNat_eq
    rw [add128_toNat, mul128_toNat, Nat.mod_add_mod, divrem_quotient_toNat, divrem_remainder_toNat, Nat.div_add_mod']
    exact Nat.mod_eq_of_lt x.isLt
  · rw [lt128_iff, divrem_remainder_toNat]
    exact Nat.mod_lt _ (Nat.pos_of_ne_zero fun h => hy (BitVec.eq_of_toNat_eq h))
  · have hreg : s.reg c = zext128 (s.scalar b) := hc.trans (zext128_eq_cat _).symm
    have hnum : s.num c ≠ 0 := by rwa [State.num, hreg, zext128_scalar_toNat]
    rw [exec_divS hb, exec_modS hb, exec_div hnum, exec_mod hnum, hreg]
    exact ⟨rfl, rfl⟩

end Sys2Proof.Machine
end

section
/-! SUPPORT. INC and DEC (46_incdec.md R260, R261) are ADD_S and SUB_S with the scalar 1: adding 1 to a limb carries
exactly when it gives 0, and subtracting 1 borrows exactly from 0. -/

namespace Sys2Proof.Machine

theorem add_one_beq_zero_eq_ult (x : U64) : (x + 1 == 0) = (x + 1).ult x := by
  rw [Bool.eq_iff_iff, beq_iff_eq, BitVec.ult_iff_lt]
  bv_omega

theorem beq_zero_eq_ult_one (x : U64) : (x == 0) = x.ult 1 := by
  rw [Bool.eq_iff_iff, beq_iff_eq, BitVec.ult_iff_lt]
  exact (BitVec.lt_one_iff (by decide)).symm

/-- INC is ADD_S with the scalar 1 (R260). -/
theorem inc128_eq_addScalar (a : U128) : inc128 a = addScalar a 1 := by
  rw [inc128, add_one_beq_zero_eq_ult, addScalar]

/-- DEC is SUB_S with the scalar 1 (R261). -/
theorem dec128_eq_subScalar (a : U128) : dec128 a = subScalar a 1 := by
  rw [dec128, beq_zero_eq_ult_one, ← ult_sub_eq_ult, subScalar]

theorem inc128_toNat (a : U128) : (inc128 a).toNat = (a.toNat + 1) % 2 ^ 128 := by
  rw [inc128_eq_addScalar]
  exact addScalar_toNat a 1

theorem dec128_toNat (a : U128) : (dec128 a).toNat = (a.toNat + (2 ^ 128 - 1)) % 2 ^ 128 := by
  rw [dec128_eq_subScalar]
  exact subScalar_toNat a 1

end Sys2Proof.Machine
end

section
/-! SUPPORT. The statement about increment and decrement (46_incdec.md), settled. -/

namespace Sys2Proof.Machine

/-- Settles O21: each command is one `finish` of the incremented or decremented number modulo 2^128. -/
theorem incDecWrites : Obligations.IncDecWrites := by
  intro s rd a
  exact ⟨writesNat_of_finish_mod rfl (inc128_toNat _), writesNat_of_finish_mod rfl (dec128_toNat _)⟩

end Sys2Proof.Machine
end

section
/-! SUPPORT. What fetching a text answers (47_parse.md R271): each of its three ends one byte at a time, and then the
run of bytes before the end. -/

namespace Sys2Proof.Machine

variable {m : Memory} {size a n x : Nat} {t : List Byte}

/-! ### One byte -/

theorem Fetched.prepend_eq_text_iff {b : Byte} {f : Fetched} :
    f.prepend b = .text t ↔ ∃ t', f = .text t' ∧ t = b :: t' := by
  cases f <;> simp [Fetched.prepend, eq_comm]

theorem Fetched.prepend_eq_outOfRange_iff {b : Byte} {f : Fetched} :
    f.prepend b = .outOfRange x ↔ f = .outOfRange x := by
  cases f <;> simp [Fetched.prepend]

theorem Fetched.prepend_eq_unwritten_iff {b : Byte} {f : Fetched} :
    f.prepend b = .unwritten x ↔ f = .unwritten x := by
  cases f <;> simp [Fetched.prepend]

/-- The byte at `y` is in range and belongs to the text: written and not 0x00. -/
def TextByte (m : Memory) (size y : Nat) : Prop := y < size ∧ ∃ b, m.read y = some b ∧ b ≠ 0

/-- Where the next byte is, and what it is, decides how fetching goes on. -/
theorem fetchText_succ_cases (m : Memory) (size a n : Nat) :
    (size ≤ a ∧ fetchText m size a (n + 1) = .outOfRange a) ∨
    (a < size ∧ m.read a = none ∧ fetchText m size a (n + 1) = .unwritten a) ∨
    (a < size ∧ m.read a = some 0 ∧ fetchText m size a (n + 1) = .text []) ∨
    (∃ b, a < size ∧ m.read a = some b ∧ b ≠ 0 ∧
      fetchText m size a (n + 1) = (fetchText m size (a + 1) n).prepend b) := by
  rcases Nat.lt_or_ge a size with ha | ha
  · cases hb : m.read a with
    | none => exact .inr (.inl ⟨ha, rfl, fetchText_unwritten m size a n ha hb⟩)
    | some b =>
      by_cases h0 : b = 0
      · subst h0
        exact .inr (.inr (.inl ⟨ha, rfl, fetchText_nul m size a n ha hb⟩))
      · exact .inr (.inr (.inr ⟨b, ha, rfl, h0, fetchText_byte m size a n b ha hb h0⟩))
  · exact .inl ⟨ha, fetchText_outOfRange m size a n ha⟩

theorem fetchText_succ_eq_text_iff : fetchText m size a (n + 1) = .text t ↔
    a < size ∧ (m.read a = some 0 ∧ t = [] ∨
      ∃ b t', m.read a = some b ∧ b ≠ 0 ∧ fetchText m size (a + 1) n = .text t' ∧ t = b :: t') := by
  obtain ⟨ha, hf⟩ | ⟨ha, hb, hf⟩ | ⟨ha, hb, hf⟩ | ⟨b, ha, hb, h0, hf⟩ := fetchText_succ_cases m size a n
  · simp [hf, Nat.not_lt.2 ha]
  · simp [hf, hb]
  · simp only [hf, ha, hb, Fetched.text.injEq, eq_comm (a := t)]
    simp
  · have hne : b ≠ 0#8 := h0
    simp [hf, ha, hb, hne, Fetched.prepend_eq_text_iff]

theorem fetchText_succ_eq_outOfRange_iff : fetchText m size a (n + 1) = .outOfRange x ↔
    (x = a ∧ size ≤ a) ∨ (TextByte m size a ∧ fetchText m size (a + 1) n = .outOfRange x) := by
  obtain ⟨ha, hf⟩ | ⟨ha, hb, hf⟩ | ⟨ha, hb, hf⟩ | ⟨b, ha, hb, h0, hf⟩ := fetchText_succ_cases m size a n
  · simp [hf, ha, TextByte, Nat.not_lt.2 ha, eq_comm (a := x)]
  · simp [hf, hb, TextByte, Nat.not_le.2 ha]
  · simp [hf, hb, TextByte, Nat.not_le.2 ha]
  · have hbyte : TextByte m size a := ⟨ha, b, hb, h0⟩
    simp [hf, hbyte, Nat.not_le.2 ha, Fetched.prepend_eq_outOfRange_iff]

theorem fetchText_succ_eq_unwritten_iff : fetchText m size a (n + 1) = .unwritten x ↔
    (x = a ∧ a < size ∧ m.read a = none) ∨ (TextByte m size a ∧ fetchText m size (a + 1) n = .unwritten x) := by
  obtain ⟨ha, hf⟩ | ⟨ha, hb, hf⟩ | ⟨ha, hb, hf⟩ | ⟨b, ha, hb, h0, hf⟩ := fetchText_succ_cases m size a n
  · simp [hf, TextByte, Nat.not_lt.2 ha]
  · simp [hf, ha, hb, TextByte, eq_comm (a := x)]
  · simp [hf, hb, TextByte]
  · have hbyte : TextByte m size a := ⟨ha, b, hb, h0⟩
    simp [hf, hbyte, hb, Fetched.prepend_eq_unwritten_iff]

/-! ### The whole text -/

/-- The bytes `t` stand in range from `a` on, none of them 0x00, and they end at a 0x00 byte or are `n` bytes. -/
def IsText (m : Memory) (size a n : Nat) (t : List Byte) : Prop :=
  t.length ≤ n ∧
  (∀ k, ∀ h : k < t.length, a + k < size ∧ m.read (a + k) = some t[k] ∧ t[k] ≠ 0) ∧
  (t.length = n ∨ (a + t.length < size ∧ m.read (a + t.length) = some 0))

theorem isText_zero_iff : IsText m size a 0 t ↔ t = [] := by
  constructor
  · exact fun ⟨hlen, _⟩ => List.length_eq_zero_iff.1 (Nat.le_zero.1 hlen)
  · rintro rfl
    simp [IsText]

theorem isText_succ_nil_iff : IsText m size a (n + 1) [] ↔ a < size ∧ m.read a = some 0 := by
  simp [IsText]

theorem isText_succ_cons_iff {b : Byte} : IsText m size a (n + 1) (b :: t) ↔
    a < size ∧ m.read a = some b ∧ b ≠ 0 ∧ IsText m size (a + 1) n t := by
  simp only [IsText, List.length_cons, Nat.add_le_add_iff_right, Nat.add_right_cancel_iff, Nat.add_assoc,
    Nat.add_comm 1]
  constructor
  · rintro ⟨hlen, hrun, hend⟩
    obtain ⟨ha, hb, h0⟩ := hrun 0 (Nat.succ_pos _)
    exact ⟨ha, hb, h0, hlen, fun k h => hrun (k + 1) (Nat.succ_lt_succ h), hend⟩
  · rintro ⟨ha, hb, h0, hlen, hrun, hend⟩
    refine ⟨hlen, fun k h => ?_, hend⟩
    cases k with
    | zero => exact ⟨ha, hb, h0⟩
    | succ k => exact hrun k (Nat.lt_of_succ_lt_succ h)

theorem fetchText_eq_text_iff : fetchText m size a n = .text t ↔ IsText m size a n t := by
  induction n generalizing a t with
  | zero => simp [isText_zero_iff, eq_comm]
  | succ n ih =>
    rw [fetchText_succ_eq_text_iff]
    cases t with
    | nil => simp [isText_succ_nil_iff]
    | cons b t =>
      rw [isText_succ_cons_iff, ← ih]
      simp

/-! ### The address fetching stops at -/

/-- `x` is among the `n` addresses from `a` on, and the first of them that is `bad`, all before it being `good`. -/
def StopsAt (good bad : Nat → Prop) (a n x : Nat) : Prop :=
  a ≤ x ∧ x < a + n ∧ bad x ∧ ∀ y, a ≤ y → y < x → good y

variable {good bad : Nat → Prop}

theorem not_stopsAt_zero : ¬ StopsAt good bad a 0 x := fun ⟨h1, h2, _⟩ => absurd h2 (Nat.not_lt.2 h1)

theorem stopsAt_succ_iff : StopsAt good bad a (n + 1) x ↔
    (x = a ∧ bad a) ∨ (good a ∧ StopsAt good bad (a + 1) n x) := by
  constructor
  · rintro ⟨h1, h2, hbad, hgood⟩
    rcases Nat.eq_or_lt_of_le h1 with rfl | h1
    · exact .inl ⟨rfl, hbad⟩
    · exact .inr ⟨hgood a (Nat.le_refl a) h1, h1, by omega, hbad, fun y hy => hgood y (Nat.le_of_succ_le hy)⟩
  · rintro (⟨rfl, hbad⟩ | ⟨ha, h1, h2, hbad, hgood⟩)
    · exact ⟨Nat.le_refl x, by omega, hbad, fun y hy hyx => absurd hyx (Nat.not_lt.2 hy)⟩
    · refine ⟨by omega, by omega, hbad, fun y hy hyx => ?_⟩
      rcases Nat.eq_or_lt_of_le hy with rfl | hy
      · exact ha
      · exact hgood y hy hyx

theorem fetchText_eq_outOfRange_iff :
    fetchText m size a n = .outOfRange x ↔ StopsAt (TextByte m size) (size ≤ ·) a n x := by
  induction n generalizing a with
  | zero => simp [not_stopsAt_zero]
  | succ n ih => rw [fetchText_succ_eq_outOfRange_iff, stopsAt_succ_iff, ih]

theorem fetchText_eq_unwritten_iff : fetchText m size a n = .unwritten x ↔
    StopsAt (TextByte m size) (fun y => y < size ∧ m.read y = none) a n x := by
  induction n generalizing a with
  | zero => simp [not_stopsAt_zero]
  | succ n ih => rw [fetchText_succ_eq_unwritten_iff, stopsAt_succ_iff, ih]

/-- Before an address in range every address is in range. -/
theorem stopsAt_unwritten_iff : StopsAt (TextByte m size) (fun y => y < size ∧ m.read y = none) a n x ↔
    a ≤ x ∧ x < a + n ∧ x < size ∧ m.read x = none ∧ ∀ y, a ≤ y → y < x → ∃ b, m.read y = some b ∧ b ≠ 0 := by
  rw [StopsAt, and_assoc]
  refine and_congr_right fun _ => and_congr_right fun _ => and_congr_right fun hx => and_congr_right fun _ => ?_
  exact forall₃_congr fun y _ hy => and_iff_right (Nat.lt_trans hy hx)

/-! ### PARSE, end by end -/

variable {s : State} {l : Reg}

theorem exec_parse_of_text {r : Reg} (rd : Reg)
    (h : fetchText s.text s.params.textSize (s.loNum r) (s.loNum l) = .text t) :
    exec (.parse rd r l) s = finish rd (parseText t) s := by
  rw [← State.scalar_toNat, ← State.scalar_toNat] at h
  simp only [exec, execParse, h]

theorem exec_parse_of_outOfRange {r : Reg} (rd : Reg)
    (h : fetchText s.text s.params.textSize (s.loNum r) (s.loNum l) = .outOfRange x) :
    exec (.parse rd r l) s = .next (s.raise .textRange (encode (.parse rd r l))) := by
  rw [← State.scalar_toNat, ← State.scalar_toNat] at h
  simp only [exec, execParse, h]

end Sys2Proof.Machine
end

section
/-! SUPPORT. How `parse` reads a text (47_parse.md R272 to R276): its base, its digits, and its leading zeros. -/

namespace Sys2Proof.Machine

/-! ### The base (R274) -/

/-- The base letters are x, X, o, O, b and B. -/
theorem prefixBase_eq_none_iff {p : Byte} :
    prefixBase p = none ↔ p ∉ [(0x78 : Byte), 0x58, 0x6F, 0x4F, 0x62, 0x42] := by
  simp only [prefixBase, List.mem_cons, List.not_mem_nil, or_false]
  grind

theorem prefixBase_ne_dec (p : Byte) : prefixBase p ≠ some .dec := by
  unfold prefixBase
  grind

theorem detectBase_of_baseLetter {p : Byte} {b : Base} (h : prefixBase p = some b) (rest : List Byte) :
    detectBase (0x30 :: p :: rest) = (b, rest) := by
  simp [detectBase, chZero, h]

theorem detectBase_of_no_baseLetter {t : List Byte} (h : ∀ p rest, t = 0x30 :: p :: rest → prefixBase p = none) :
    detectBase t = (.dec, t) := by
  match t with
  | [] => rfl
  | [_] => rfl
  | c :: p :: rest =>
    by_cases hc : c = 0x30
    · subst hc
      simp [detectBase, chZero, h p rest rfl]
    · exact if_neg hc

/-- The empty text needs no case of its own. -/
theorem parseText_of_detectBase {t rest : List Byte} {b : Base} (h : detectBase t = (b, rest)) :
    parseText t =
      if maxDigits b < (skipZeros rest).length then max128 else accumulate b zero128 (skipZeros rest) := by
  cases t with
  | nil =>
    obtain ⟨rfl, rfl⟩ : Base.dec = b ∧ [] = rest := Prod.mk.inj h
    rfl
  | cons c t => simp [parseText, h]

/-! ### The digits (R276) -/

theorem classValue_eq_some_iff {c : Byte} {first last base : Nat} {v : U64} (hb : base ≤ 10) :
    classValue c first last base = some v ↔
      first ≤ c.toNat ∧ c.toNat ≤ last ∧ v.toNat = c.toNat - first + base := by
  have hlt : c.toNat - first + base < 2 ^ 64 := by omega
  rw [classValue, Option.ite_none_right_eq_some, and_assoc, Option.some_inj, eq_comm,
    ← BitVec.toNat_inj, BitVec.toNat_ofNat, Nat.mod_eq_of_lt hlt]

/-- The three classes of hexadecimal digits are disjoint, so their order in `digit` does not matter. -/
theorem digit_hex_eq_some_iff {c : Byte} {v : U64} : digit c .hex = some v ↔
    (0x30 ≤ c.toNat ∧ c.toNat ≤ 0x39 ∧ v.toNat = c.toNat - 0x30) ∨
    (0x41 ≤ c.toNat ∧ c.toNat ≤ 0x46 ∧ v.toNat = c.toNat - 0x41 + 10) ∨
    (0x61 ≤ c.toNat ∧ c.toNat ≤ 0x66 ∧ v.toNat = c.toNat - 0x61 + 10) := by
  simp only [digit, Option.or_eq_some_iff, Option.eq_none_iff_forall_ne_some, ne_eq,
    classValue_eq_some_iff (Nat.zero_le 10), classValue_eq_some_iff (Nat.le_refl 10)]
  grind

/-! ### Leading zeros (R275) -/

theorem skipZeros_zero_cons (t : List Byte) : skipZeros (chZero :: t) = skipZeros t := by
  simp [skipZeros]

theorem skipZeros_cons_of_ne {c : Byte} (hc : c ≠ chZero) (t : List Byte) : skipZeros (c :: t) = c :: t := by
  simp [skipZeros, hc]

theorem digit_isSome_skipZeros {b : Base} {t : List Byte} (hvalid : ∀ c ∈ t, (digit c b).isSome = true) :
    ∀ c ∈ skipZeros t, (digit c b).isSome = true :=
  fun c hc => hvalid c (List.dropWhile_subset _ hc)

theorem digit_zero_isSome (b : Base) : (digit chZero b).isSome = true := by
  cases b <;> decide

/-- A byte that is no digit is no leading zero. -/
theorem mem_skipZeros_of_invalid {t : List Byte} {b : Base} {c : Byte} (hmem : c ∈ t) (hc : digit c b = none) :
    c ∈ skipZeros t := by
  rw [← List.takeWhile_append_dropWhile (p := (· == chZero)) (l := t), List.mem_append] at hmem
  refine hmem.resolve_left fun hzero => ?_
  have hzero : c = chZero := by simpa using List.mem_takeWhile_imp hzero
  simpa [← hzero, hc] using digit_zero_isSome b

end Sys2Proof.Machine
end

section
/-! SUPPORT. The number a text of digits stands for (47_parse.md R276, R280, R281). -/

namespace Sys2Proof.Machine

/-! ### Digits as numbers -/

theorem digit_toNat_lt {c : Byte} {b : Base} {d : U64} (h : digit c b = some d) : d.toNat < radixOf b := by
  cases b
  case hex =>
    rw [digit_hex_eq_some_iff] at h
    simp only [radixOf]
    omega
  all_goals
    simp only [digit, classValue_eq_some_iff (Nat.zero_le 10)] at h
    simp only [radixOf]
    omega

theorem digitNum_of_digit {c : Byte} {b : Base} {d : U64} (h : digit c b = some d) : digitNum b c = d.toNat := by
  rw [digitNum, h, Option.getD_some]

theorem digitNum_lt (b : Base) (c : Byte) : digitNum b c < radixOf b := by
  cases h : digit c b with
  | some d => exact digitNum_of_digit h ▸ digit_toNat_lt h
  | none =>
    rw [digitNum, h]
    cases b <;> decide

theorem digitNum_zero (b : Base) : digitNum b chZero = 0 := by
  cases b <;> decide

/-! ### The number of a text -/

/-- The library's value of a list of digits takes the least significant digit first. -/
theorem numberOf_eq_ofDigits (r : Nat) (ds : List Nat) : numberOf r ds = Nat.ofDigits r ds.reverse := by
  simp [numberOf, Nat.ofDigits_eq_foldr, Nat.add_comm]

theorem numberOf_concat (r : Nat) (ds : List Nat) (d : Nat) : numberOf r (ds ++ [d]) = r * numberOf r ds + d := by
  simp [numberOf]

theorem numberOf_zero_cons (r : Nat) (ds : List Nat) : numberOf r (0 :: ds) = numberOf r ds := by
  simp [numberOf]

/-- The number the bytes of `t` stand for in base `b`. -/
def textNumber (b : Base) (t : List Byte) : Nat := numberOf (radixOf b) (t.map (digitNum b))

theorem textNumber_concat (b : Base) (t : List Byte) (c : Byte) :
    textNumber b (t ++ [c]) = radixOf b * textNumber b t + digitNum b c := by
  rw [textNumber, List.map_append, List.map_singleton, numberOf_concat, textNumber]

theorem one_lt_radixOf (b : Base) : 1 < radixOf b := by
  cases b <;> decide

theorem textNumber_lt_pow {b : Base} {t : List Byte} {n : Nat} (h : t.length ≤ n) :
    textNumber b t < radixOf b ^ n := by
  have hlt : textNumber b t < radixOf b ^ (t.map (digitNum b)).reverse.length := by
    rw [textNumber, numberOf_eq_ofDigits]
    refine Nat.ofDigits_lt_base_pow_length (one_lt_radixOf b) fun d hd => ?_
    obtain ⟨c, -, rfl⟩ := List.mem_map.1 (List.mem_reverse.1 hd)
    exact digitNum_lt b c
  rw [List.length_reverse, List.length_map] at hlt
  exact hlt.trans_le (Nat.pow_le_pow_right (Nat.zero_lt_of_lt (one_lt_radixOf b)) h)

theorem textNumber_zero_cons (b : Base) (t : List Byte) : textNumber b (chZero :: t) = textNumber b t := by
  rw [textNumber, List.map_cons, digitNum_zero, numberOf_zero_cons, textNumber]

theorem textNumber_skipZeros (b : Base) (t : List Byte) : textNumber b (skipZeros t) = textNumber b t := by
  induction t with
  | nil => rfl
  | cons c t ih =>
    by_cases hc : c = chZero
    · rw [hc, skipZeros_zero_cons, ih, textNumber_zero_cons]
    · rw [skipZeros_cons_of_ne hc]

end Sys2Proof.Machine
end

section
/-! SUPPORT. The digit loop of `parse` (47_parse.md R272, R278, R279): it holds the number of the digits read so far. -/

namespace Sys2Proof.Machine

/-! ### One digit (R278, R279) -/

theorem or128_shl128_toNat {v : U128} {n d : U64} (hn : n.toNat < 128) (hd : d.toNat < 2 ^ n.toNat) :
    (or128 (shl128 v n) (cat 0 d)).toNat = (2 ^ n.toNat * v.toNat + d.toNat) % 2 ^ 128 := by
  have hpow : 2 ^ 128 = 2 ^ n.toNat * 2 ^ (128 - n.toNat) := by rw [← Nat.pow_add, Nat.add_sub_cancel' hn.le]
  have hshift : 2 ^ n.toNat * v.toNat % 2 ^ 128 = 2 ^ n.toNat * (v.toNat % 2 ^ (128 - n.toNat)) := by
    rw [hpow, Nat.mul_mod_mul_left]
  have hsum : 2 ^ n.toNat * (v.toNat % 2 ^ (128 - n.toNat)) + d.toNat < 2 ^ 128 := by
    rw [hpow]
    exact (Nat.mul_add_lt_mul_of_lt_of_lt (Nat.mod_lt _ (Nat.two_pow_pos _)) hd).trans_eq (Nat.mul_comm _ _)
  calc (or128 (shl128 v n) (cat 0 d)).toNat
      = 2 ^ n.toNat * v.toNat % 2 ^ 128 ||| d.toNat := by
        rw [or128_eq_or, BitVec.toNat_or, cat_zero_toNat, shl128_toNat, if_neg (Nat.not_le.2 hn), Nat.mul_comm]
    _ = 2 ^ n.toNat * (v.toNat % 2 ^ (128 - n.toNat)) + d.toNat := by
        rw [hshift, Nat.two_pow_add_eq_or_of_lt hd]
    _ = (2 ^ n.toNat * v.toNat + d.toNat) % 2 ^ 128 := by
        rw [← Nat.mod_add_mod, hshift, Nat.mod_eq_of_lt hsum]

theorem digitStep_dec (v : U128) (d : U64) : digitStep .dec v d =
    if (10 * v.toNat + d.toNat) % 2 ^ 128 % 10 = d.toNat then .value (BitVec.ofNat 128 (10 * v.toNat + d.toNat))
    else .saturate := by
  have hv : addScalar (mulScalar v 10) d = BitVec.ofNat 128 (10 * v.toNat + d.toNat) := by
    apply BitVec.eq_of_toNat_eq
    rw [addScalar_toNat, mulScalar_toNat, Nat.mod_add_mod, BitVec.toNat_ofNat, Nat.mul_comm]
    rfl
  simp only [digitStep, bitsPerDigit, hv]
  refine if_congr ?_ rfl rfl
  rw [← BitVec.toNat_inj, BitVec.toNat_umod, BitVec.toNat_ofNat, zext128_toNat]
  rfl

/-- A digit is taken in as the number says, modulo 2^128; in decimal only while the number fits. -/
theorem digitStep_ofNat {b : Base} {d : U64} {n : Nat} (hd : d.toNat < radixOf b)
    (hfit : b = .dec → 10 * n + d.toNat < 2 ^ 128) :
    digitStep b (BitVec.ofNat 128 n) d = .value (BitVec.ofNat 128 (radixOf b * n + d.toNat)) := by
  cases b
  case dec =>
    have hsum := hfit rfl
    have hn : n < 2 ^ 128 := by omega
    have hd : d.toNat < 10 := hd
    rw [digitStep_dec, BitVec.toNat_ofNat, Nat.mod_eq_of_lt hn, Nat.mod_eq_of_lt hsum, if_pos (by omega), radixOf]
  all_goals
    refine congrArg DigitStep.value (BitVec.eq_of_toNat_eq ?_)
    rw [or128_shl128_toNat (by decide) hd, BitVec.toNat_ofNat, BitVec.toNat_ofNat, Nat.add_mod, Nat.mul_mod_mod,
      ← Nat.add_mod]
    rfl

/-- Losing one or two multiples of a number that ends in 6, as 2^128 does, changes the last decimal digit. -/
theorem mod_mod_ten_ne {m n : Nat} (hm : m % 10 = 6) (hle : m ≤ n) (hlt : n < 3 * m) : n % m % 10 ≠ n % 10 := by
  rcases Nat.lt_or_ge (n - m) m with h | h
  · rw [Nat.mod_eq_sub_mod hle, Nat.mod_eq_of_lt h]
    omega
  · have hrest : n - m - m < m := by omega
    rw [Nat.mod_eq_sub_mod hle, Nat.mod_eq_sub_mod h, Nat.mod_eq_of_lt hrest]
    omega

/-- A decimal overflow that loses at most two multiples of 2^128 is noticed (R279). -/
theorem digitStep_dec_overflow {v : U128} {d : U64} (hd : d.toNat < 10) (hover : 2 ^ 128 ≤ 10 * v.toNat + d.toNat)
    (hlt : 10 * v.toNat + d.toNat < 3 * 2 ^ 128) : digitStep .dec v d = .saturate := by
  have hne := mod_mod_ten_ne (by decide) hover hlt
  rw [Nat.mul_add_mod, Nat.mod_eq_of_lt hd] at hne
  rw [digitStep_dec, if_neg hne]

/-! ### The loop -/

theorem accumulate_cons_invalid {b : Base} {c : Byte} (hc : digit c b = none) (v : U128) (rest : List Byte) :
    accumulate b v (c :: rest) = zero128 := by
  rw [accumulate, hc]

theorem accumulate_cons_value {b : Base} {c : Byte} {d : U64} {v v' : U128} (hc : digit c b = some d)
    (hstep : digitStep b v d = .value v') (rest : List Byte) :
    accumulate b v (c :: rest) = accumulate b v' rest := by
  simp only [accumulate, hc, hstep]

theorem accumulate_cons_saturate {b : Base} {c : Byte} {d : U64} {v : U128} (hc : digit c b = some d)
    (hstep : digitStep b v d = .saturate) (rest : List Byte) : accumulate b v (c :: rest) = max128 := by
  simp only [accumulate, hc, hstep]

/-- After valid digits, which in decimal make a number below 2^128, the loop holds their number modulo 2^128. -/
theorem accumulate_append {b : Base} {pre : List Byte} (hvalid : ∀ c ∈ pre, (digit c b).isSome = true)
    (hfit : b = .dec → textNumber b pre < 2 ^ 128) (rest : List Byte) :
    accumulate b zero128 (pre ++ rest) = accumulate b (BitVec.ofNat 128 (textNumber b pre)) rest := by
  induction pre using List.reverseRecOn generalizing rest with
  | nil =>
    rw [List.nil_append, zero128_eq]
    rfl
  | append_singleton pre c ih =>
    obtain ⟨d, hd⟩ := Option.isSome_iff_exists.1 (hvalid c (by simp))
    rw [textNumber_concat, digitNum_of_digit hd] at hfit ⊢
    have hsum : b = .dec → 10 * textNumber b pre + d.toNat < 2 ^ 128 := by
      rintro rfl
      exact hfit rfl
    rw [List.append_assoc, ih (fun x hx => hvalid x (by simp [hx])) (fun hb => by have := hsum hb; omega),
      List.singleton_append, accumulate_cons_value hd (digitStep_ofNat (digit_toNat_lt hd) hsum)]

theorem accumulate_digits {b : Base} {t : List Byte} (hvalid : ∀ c ∈ t, (digit c b).isSome = true)
    (hfit : b = .dec → textNumber b t < 2 ^ 128) :
    accumulate b zero128 t = BitVec.ofNat 128 (textNumber b t) := by
  simpa [accumulate] using accumulate_append hvalid hfit []

/-- Up to 38 decimal digits make a number below 2^128. -/
theorem textNumber_dec_lt {t : List Byte} (h : t.length ≤ 38) : textNumber .dec t < 2 ^ 128 :=
  (textNumber_lt_pow h).trans (by decide)

/-- Within the limit the first byte that is no digit ends the loop with ZERO: in decimal at most 38 digits
precede it. -/
theorem accumulate_of_invalid {b : Base} {t : List Byte} (hlen : t.length ≤ maxDigits b)
    (h : ∃ c ∈ t, digit c b = none) : accumulate b zero128 t = zero128 := by
  obtain ⟨c, hc⟩ := Option.isSome_iff_exists.1
    ((List.find?_isSome (p := fun c => (digit c b).isNone)).2 (by simpa using h))
  obtain ⟨hnone, pre, rest, rfl, hpre⟩ := List.find?_eq_some_iff_append.1 hc
  rw [accumulate_append, accumulate_cons_invalid (by simpa using hnone)]
  · simpa using hpre
  · rintro rfl
    simp only [List.length_append, List.length_cons, maxDigits] at hlen
    exact textNumber_dec_lt (by omega)

/-- Within the limit a decimal number can outgrow 2^128 only with its last digit, and then by less than 3 * 2^128. -/
theorem accumulate_dec_overflow {t : List Byte} (hvalid : ∀ c ∈ t, (digit c .dec).isSome = true)
    (hlen : t.length ≤ 39) (hover : 2 ^ 128 ≤ textNumber .dec t) : accumulate .dec zero128 t = max128 := by
  have hlt : textNumber .dec t < 10 ^ 39 := textNumber_lt_pow hlen
  obtain rfl | ⟨pre, c, rfl⟩ := List.eq_nil_or_concat' t
  · exact absurd hover (by decide)
  · obtain ⟨d, hd⟩ := Option.isSome_iff_exists.1 (hvalid c (by simp))
    have hpre : textNumber .dec pre < 2 ^ 128 := textNumber_dec_lt (Nat.le_of_lt_succ (by simpa using hlen))
    have hnum : (BitVec.ofNat 128 (textNumber .dec pre)).toNat = textNumber .dec pre := Nat.mod_eq_of_lt hpre
    rw [textNumber_concat, digitNum_of_digit hd, radixOf, ← hnum] at hover hlt
    rw [accumulate_append (fun x hx => hvalid x (by simp [hx])) (fun _ => hpre)]
    exact accumulate_cons_saturate hd
      (digitStep_dec_overflow (digit_toNat_lt hd) hover (hlt.trans (by decide))) []

theorem max128_eq_ofNat : max128 = BitVec.ofNat 128 (2 ^ 128 - 1) := BitVec.eq_of_toNat_eq max128_toNat

/-- Within the limit a decimal number saturates at MAX (R280). -/
theorem accumulate_dec {t : List Byte} (hvalid : ∀ c ∈ t, (digit c .dec).isSome = true) (hlen : t.length ≤ 39) :
    accumulate .dec zero128 t = BitVec.ofNat 128 (min (textNumber .dec t) (2 ^ 128 - 1)) := by
  rcases Nat.lt_or_ge (textNumber .dec t) (2 ^ 128) with hfit | hover
  · rw [accumulate_digits hvalid fun _ => hfit, Nat.min_eq_left (Nat.le_sub_one_of_lt hfit)]
  · rw [accumulate_dec_overflow hvalid hlen hover, max128_eq_ofNat,
      Nat.min_eq_right (Nat.sub_le_of_le_add (Nat.le_add_right_of_le hover))]

end Sys2Proof.Machine
end

section
/-! SUPPORT. What `parse` makes of a text of digits, decimal (47_parse.md R280) or of a power-of-two base (R281). -/

namespace Sys2Proof.Machine

/-! ### Decimal texts -/

/-- A decimal digit is no base letter. -/
theorem prefixBase_of_digit {c : Byte} (h : (digit c .dec).isSome = true) : prefixBase c = none := by
  have hletter : ∀ p ∈ [(0x78 : Byte), 0x58, 0x6F, 0x4F, 0x62, 0x42], digit p .dec = none := by decide
  rw [prefixBase_eq_none_iff]
  intro hmem
  simp [hletter c hmem] at h

theorem parseText_dec {t : List Byte} (hvalid : ∀ c ∈ t, (digit c .dec).isSome = true) :
    parseText t = if 39 < (skipZeros t).length then max128
      else BitVec.ofNat 128 (min (textNumber .dec t) (2 ^ 128 - 1)) := by
  have hbase : detectBase t = (.dec, t) := detectBase_of_no_baseLetter fun p rest ht =>
    prefixBase_of_digit (hvalid p (by simp [ht]))
  rw [parseText_of_detectBase hbase, ← textNumber_skipZeros]
  refine if_ctx_congr Iff.rfl (fun _ => rfl) fun hlen => ?_
  exact accumulate_dec (digit_isSome_skipZeros hvalid) (Nat.not_lt.1 hlen)

theorem digit_decimalCode : ∀ d < 10, digit (BitVec.ofNat 8 (0x30 + d)) .dec = some (BitVec.ofNat 64 d) := by decide

theorem decimalCode_beq_chZero : ∀ d < 10, (BitVec.ofNat 8 (0x30 + d) == chZero) = (d == 0) := by decide

theorem skipZeros_map_decimalCode {ds : List Nat} (h : ∀ d ∈ ds, d < 10) :
    skipZeros (ds.map fun d => BitVec.ofNat 8 (0x30 + d)) =
      (ds.dropWhile (· == 0)).map fun d => BitVec.ofNat 8 (0x30 + d) := by
  induction ds with
  | nil => rfl
  | cons d ds ih =>
    obtain ⟨hd, hds⟩ := List.forall_mem_cons.1 h
    rw [skipZeros, List.map_cons, List.dropWhile_cons, List.dropWhile_cons, decimalCode_beq_chZero d hd, ← skipZeros,
      ih hds]
    split <;> rfl

theorem textNumber_map_decimalCode {ds : List Nat} (h : ∀ d ∈ ds, d < 10) :
    textNumber .dec (ds.map fun d => BitVec.ofNat 8 (0x30 + d)) = numberOf 10 ds := by
  rw [textNumber, List.map_map, List.map_congr_left (g := id), List.map_id]
  · rfl
  · intro d hd
    have hlt : d < 2 ^ 64 := (h d hd).trans (by decide)
    exact (digitNum_of_digit (digit_decimalCode d (h d hd))).trans (Nat.mod_eq_of_lt hlt)

/-! ### Texts with a base letter -/

theorem parseText_baseLetter {p : Byte} {b : Base} {t : List Byte} (hp : prefixBase p = some b)
    (hvalid : ∀ c ∈ t, (digit c b).isSome = true) :
    parseText (0x30 :: p :: t) = if maxDigits b < (skipZeros t).length then max128
      else BitVec.ofNat 128 (textNumber b t) := by
  have hdec : b ≠ .dec := fun h => prefixBase_ne_dec p (h ▸ hp)
  rw [parseText_of_detectBase (detectBase_of_baseLetter hp t),
    accumulate_digits (digit_isSome_skipZeros hvalid) fun h => absurd h hdec, textNumber_skipZeros]

/-- The limits of the power-of-two bases are those of 2^128, and for octal of 2^129. -/
theorem radixOf_pow_maxDigits {b : Base} (hdec : b ≠ .dec) :
    radixOf b ^ maxDigits b ≤ 2 ^ 129 ∧ (b ≠ .oct → radixOf b ^ maxDigits b = 2 ^ 128) := by
  cases b
  case dec => exact absurd rfl hdec
  all_goals decide

end Sys2Proof.Machine
end

section
/-! SUPPORT. The statements about parsing (47_parse.md), settled. -/

namespace Sys2Proof.Machine

/-- Settles O35: the base letters are the six listed ones, a digit is a byte of one of the classes of its base, and
after a base letter alone no digit is left to accumulate. -/
theorem prefixesAndDigitClasses : Obligations.PrefixesAndDigitClasses := by
  refine ⟨fun rest => ?_, fun t ht => ?_, by decide, fun c v => ?_⟩
  · refine ⟨?_, ?_, ?_, ?_, ?_, ?_⟩ <;> exact detectBase_of_baseLetter rfl rest
  · exact detectBase_of_no_baseLetter fun p rest h => prefixBase_eq_none_iff.2 (ht p rest h)
  · exact ⟨classValue_eq_some_iff (Nat.zero_le 10), classValue_eq_some_iff (Nat.zero_le 10),
      classValue_eq_some_iff (Nat.zero_le 10), digit_hex_eq_some_iff⟩

/-- Settles O37, end by end, each by induction on the number of bytes still to read. -/
theorem fetchedTextEndsAtNulOrLength : Obligations.FetchedTextEndsAtNulOrLength :=
  fun _ _ _ _ => ⟨fun _ => fetchText_eq_text_iff, fun _ => fetchText_eq_outOfRange_iff,
    fun _ => fetchText_eq_unwritten_iff.trans stopsAt_unwritten_iff⟩

/-- Settles O38: the address is the one fetching stops at, and PARSE then raises with its own encoding. -/
theorem textOutsideTheMemoryFaults : Obligations.TextOutsideTheMemoryFaults := by
  intro s w rd a l x hpend hdecode hax hxl hout hrun
  have hfetch := fetchText_eq_outOfRange_iff.2 ⟨hax, hxl, hout, hrun⟩
  exact faultEntry_of_exec_raise hpend hdecode (exec_parse_of_outOfRange rd hfetch)

/-- Settles O40: the codes of decimal digits are decimal digits with those values. -/
theorem decimalTextParses : Obligations.DecimalTextParses := by
  intro ds hds
  rw [parseText_dec, skipZeros_map_decimalCode hds, List.length_map, textNumber_map_decimalCode hds, max128_eq_ofNat]
  intro c hc
  obtain ⟨d, hd, rfl⟩ := List.mem_map.1 hc
  rw [digit_decimalCode d (hds d hd), Option.isSome_some]

/-- Settles O41: the loop keeps the number modulo 2^128, and MAXD digits bound it by the radix to that power. -/
theorem powerOfTwoTextParses : Obligations.PowerOfTwoTextParses := by
  intro p b cs hp hvalid
  refine ⟨max128_eq_ofNat ▸ parseText_baseLetter hp hvalid, fun hlen => ?_⟩
  have hlt : textNumber b cs < radixOf b ^ maxDigits b := textNumber_skipZeros b cs ▸ textNumber_lt_pow hlen
  obtain ⟨hle, heq⟩ := radixOf_pow_maxDigits fun h => prefixBase_ne_dec p (h ▸ hp)
  exact ⟨hlt.trans_le hle, fun hoct => heq hoct ▸ hlt⟩

/-- Settles O42: the count comes first in `parse`, and within it the loop meets the first invalid byte before a decimal
number can outgrow 2^128. -/
theorem countIsCheckedBeforeDigits : Obligations.CountIsCheckedBeforeDigits := by
  refine ⟨rfl, rfl, rfl, rfl, fun t b rest ht => ?_⟩
  rw [parseText_of_detectBase ht]
  refine ⟨fun hlen => (if_pos hlen).trans max128_eq_ofNat, fun hlen ⟨c, hmem, hc⟩ => ?_⟩
  have hzero := accumulate_of_invalid hlen ⟨c, mem_skipZeros_of_invalid hmem hc, hc⟩
  exact (if_neg (Nat.not_lt.2 hlen)).trans (hzero.trans zero128_eq)

/-- Settles O36: with its text fetched PARSE is one `finish`. -/
theorem parseWritesTheParsedText : Obligations.ParseWritesTheParsedText :=
  fun _ rd _ _ _ h => writes_of_finish (exec_parse_of_text rd h)

/-- Settles O39: in both cases the empty text is fetched. -/
theorem emptyTextParsesToZero : Obligations.EmptyTextParsesToZero := by
  refine ⟨zero128_eq, fun s rd a l h => ?_⟩
  have hfetch : fetchText s.text s.params.textSize (s.loNum a) (s.loNum l) = .text [] := by
    rcases Nat.eq_zero_or_pos (s.loNum l) with hl | hl
    · rw [hl, fetchText_zero]
    · obtain ⟨n, hn⟩ := Nat.exists_eq_add_of_lt hl
      obtain ⟨ha, hnul⟩ := h.resolve_left hl.ne'
      rw [hn, fetchText_nul _ _ _ _ ha hnul]
  exact writes_of_finish (exec_parse_of_text rd hfetch)

end Sys2Proof.Machine
end

section
/-! SUPPORT. How one step ends: whether it answers a state, what it does to FAULT, CAUSE, FCMD and OVR
(60_exceptions.md), and where the schedule takes it (70_reset_and_hazards.md). -/

namespace Sys2Proof.Machine

variable {s t : State}

/-! ### The schedule -/

theorem popEvent_of_events_nil (h : s.events = []) : s.popEvent = s := by
  rw [State.popEvent, h, List.tail_nil, ← h]

theorem popEvent_of_events_cons {e : Event} {es : List Event} (h : s.events = e :: es) :
    s.popEvent = { s with events := es } := by
  simp [State.popEvent, h]

/-- The core moves at the state without its event, also when no event is left to take. -/
theorem step_next_popped_cases (h : step s = .next t) :
    coreStep s.popEvent = .next t ∨
    (∃ a es, s.events = .host a :: es ∧ hostAccess a s.popEvent = .next t) ∨
    ∃ es, s.events = .reset :: es ∧ t = s.popEvent.afterReset := by
  obtain (⟨he, hc⟩ | ⟨_, -, hc⟩) | h := step_next_cases h
  · exact .inl (by rwa [popEvent_of_events_nil he])
  · exact .inl hc
  · exact .inr h

/-- A word is its own low 32 bits, so placing it by its number places that very word. -/
theorem withFetchWord_toNat (s : State) (w : Cmd) : s.withFetchWord 32 w.toNat = s.withPending w := by
  rw [State.withFetchWord, Nat.mod_eq_of_lt w.isLt, BitVec.ofNat_toNat, BitVec.setWidth_eq]

/-! ### A command -/

/-- A command answers a next state, unless it is PARSE and stops. -/
theorem exec_next_or_stops (i : Instr) (s : State) :
    (∃ t, exec i s = .next t) ∨ ∃ rd a l, i = .parse rd a l ∧ exec i s = .fault .unwrittenText := by
  obtain ⟨rd, v, -, he⟩ | ⟨rd, rd2, v, v2, -, he⟩ | ⟨c, -, he⟩ | hstop := exec_cases i s
  · exact .inl ⟨_, he⟩
  · exact .inl ⟨_, he⟩
  · exact .inl ⟨_, he⟩
  · exact .inr hstop

theorem exec_parse_of_unwritten {a l : Reg} {x : Nat} (rd : Reg)
    (h : fetchText s.text s.params.textSize (s.loNum a) (s.loNum l) = .unwritten x) :
    exec (.parse rd a l) s = .fault .unwrittenText := by
  rw [← State.scalar_toNat, ← State.scalar_toNat] at h
  simp only [exec, execParse, h]

/-- PARSE stops exactly at an unwritten byte: with any other end of its fetching it answers a next state. -/
theorem exec_parse_stops_iff (rd a l : Reg) (s : State) :
    exec (.parse rd a l) s = .fault .unwrittenText ↔
      ∃ x, fetchText s.text s.params.textSize (s.loNum a) (s.loNum l) = .unwritten x := by
  refine ⟨fun h => ?_, fun ⟨_, hx⟩ => exec_parse_of_unwritten rd hx⟩
  cases hf : fetchText s.text s.params.textSize (s.loNum a) (s.loNum l) with
  | text t => cases (exec_parse_of_text rd hf).symm.trans h
  | outOfRange x => cases (exec_parse_of_outOfRange rd hf).symm.trans h
  | unwritten x => exact ⟨x, rfl⟩

/-! ### The core's move -/

theorem coreStep_next_or_stops (s : State) : (∃ t, coreStep s = .next t) ∨ coreStep s = .fault .unwrittenText := by
  obtain ⟨-, he⟩ | ⟨_, i, -, -, he⟩ | ⟨_, _, -, -, he⟩ := coreStep_cases s
  · exact .inl ⟨_, he⟩
  · obtain ⟨t, ht⟩ | ⟨_, _, _, -, hstop⟩ := exec_next_or_stops i s
    · exact .inl ⟨t, he.trans ht⟩
    · exact .inr (he.trans hstop)
  · exact .inl ⟨_, he⟩

theorem coreStep_ovr (h : coreStep s = .next t) : t.ovr = s.ovr := by
  obtain ⟨-, rfl⟩ | ⟨-, ⟨_, hw, -⟩ | ⟨_, _, -, rfl⟩⟩ := coreStep_next_cases h
  · rfl
  · exact hw.ovr
  · rfl

/-- The core's move sets FAULT only by raising a cause with the pending word, which is a decoded command's own word. -/
theorem coreStep_raises (h : coreStep s = .next t) (hs : s.fault = false) (ht : t.fault = true) :
    ∃ w c, s.pend = some w ∧ c ≠ .none ∧ t = s.raise c w := by
  obtain ⟨-, he⟩ | ⟨w, i, hp, hd, he⟩ | ⟨w, _, hp, -, he⟩ := coreStep_cases s <;> rw [he] at h
  · cases h
    cases hs.symm.trans ht
  · obtain ⟨hw, -⟩ | ⟨c, hc, rfl⟩ := exec_next_cases h
    · cases hs.symm.trans (hw.fault.symm.trans ht)
    · exact ⟨w, c, hp, hc, by rw [encodeOfDecodeIsTheWord w i hd]⟩
  · cases h
    exact ⟨w, .illegalCmd, hp, by decide, rfl⟩

/-! ### A host access -/

variable {a : HostAccess}

/-- The host can neither set nor clear FAULT, CAUSE and FCMD. -/
theorem hostAccess_record (h : hostAccess a s = .next t) : t.fault = s.fault ∧ t.cause = s.cause ∧ t.fcmd = s.fcmd := by
  obtain ⟨_, e⟩ | ⟨-, e⟩ | ⟨-, _, e⟩ | ⟨-, -, _, e⟩ | ⟨-, _, _, e⟩ | ⟨-, _, _, _, -, e⟩ | ⟨-, e⟩ :=
    hostAccess_cases a s <;> rw [e] at h <;> cases h <;> exact ⟨rfl, rfl, rfl⟩

/-- OVR is kept, unless the access is dropped because the block is busy, which sets it. -/
theorem hostAccess_ovr (h : hostAccess a s = .next t) : t.ovr = s.ovr ∨ s.busy = true ∧ t.ovr = true := by
  obtain ⟨_, e⟩ | ⟨hb, e⟩ | ⟨-, _, e⟩ | ⟨-, -, _, e⟩ | ⟨-, _, _, e⟩ | ⟨-, _, _, _, -, e⟩ | ⟨-, e⟩ :=
    hostAccess_cases a s <;> rw [e] at h <;> cases h
  case inr.inl => exact .inr ⟨hb, rfl⟩
  all_goals exact .inl rfl

/-- A halted block accepts no command. -/
theorem hostAccess_pend_of_halted (h : hostAccess a s = .next t) (hf : s.fault = true) : t.pend = s.pend := by
  by_contra hp
  obtain ⟨_, -, -, hrun, -⟩ := hostAccess_pend_of_ne h hp
  cases hf.symm.trans hrun

/-- A legal write that BUSY would not drop goes to one of the four read-only registers. -/
theorem readOnly_of_not_dropsWhenBusy {p : Params} {off : Nat} {width : Width} {data : U64}
    (hl : (HostAccess.read off width).wellFormed p = true) (hd : dropsWhenBusy p (.write off width data) = false) :
    off ∈ [0x000, 0x004, 0x008, 0x010] ∧ width = .w32 := by
  simp only [dropsWhenBusy, wellFormed_write, hl, Bool.true_and, Bool.or_eq_false_iff, beq_eq_false_iff_ne] at hd
  obtain ⟨⟨hcmd, hr⟩, ht⟩ := hd
  cases hc : inControl off with
  | false => cases hl.symm.trans (wellFormed_unmapped hc hr ht)
  | true =>
    have ho : off < 0x14 := of_decide_eq_true hc
    rw [wellFormed_inControl hc, Bool.and_eq_true, beq_iff_eq, beq_iff_eq] at hl
    obtain ⟨rfl, hal⟩ := hl
    simp only [Width.bytes] at hal
    simp only [List.mem_cons, List.not_mem_nil, or_false, and_true]
    omega

theorem hostAccess_ovr_of_not_dropsWhenBusy (hd : dropsWhenBusy s.params a = false) (h : hostAccess a s = .next t) :
    t.ovr = s.ovr := by
  cases a with
  | read off width => exact (hostReadsHaveNoSideEffect.1 off width s t h).ovr
  | write off width data =>
    cases hl : (HostAccess.read off width).wellFormed s.params with
    | true =>
      obtain ⟨ho, rfl⟩ := readOnly_of_not_dropsWhenBusy hl hd
      cases (hostReadsHaveNoSideEffect.2 off ho data s).symm.trans h
      rfl
    | false =>
      rw [(busErrorsAreExactlyTheIllegalAccesses (.write off width data) s).1 hl] at h
      cases h
      rfl

/-- The host keeps its duty at an access when the block is idle or BUSY would not drop the access. -/
theorem dutyKept_host_iff {es : List Event} (he : s.events = .host a :: es) :
    s.dutyKept = true ↔ s.busy = false ∨ dropsWhenBusy s.params a = false := by
  simp only [State.dutyKept, he, Bool.not_eq_true', Bool.and_eq_false_iff]

/-! ### Reset -/

theorem statusWord_afterReset (s : State) : s.afterReset.statusWord = 0 :=
  BitVec.eq_of_toNat_eq (statusWord_toNat s.afterReset)

end Sys2Proof.Machine
end

section
/-! SUPPORT. The statements about faults and halting (60_exceptions.md), settled. -/

namespace Sys2Proof.Machine

/-- Settles O52: a halted block holds no command, so the core idles, and the host changes neither the record nor PEND. -/
theorem faultStaysUntilReset : Obligations.FaultStaysUntilReset := by
  intro s t hi hreset h
  obtain hc | ⟨a, es, -, ha⟩ | ⟨es, he, -⟩ := step_next_popped_cases h
  · refine ⟨fun hf => ?_, (coreStep_ovr hc).trans⟩
    have hp : s.popEvent.pend = none := hi.haltedEmpty hf
    cases (coreStep_idle _ hp).symm.trans hc
    exact ⟨hf, rfl, rfl, hp⟩
  · obtain ⟨hfault, hcause, hfcmd⟩ := hostAccess_record ha
    refine ⟨fun hf => ⟨hfault.trans hf, hcause, hfcmd, ?_⟩, fun ho => ?_⟩
    · exact (hostAccess_pend_of_halted ha hf).trans (hi.haltedEmpty hf)
    · exact (hostAccess_ovr ha).elim (·.trans ho) And.right
  · exact absurd he (hreset es)

/-- Settles O53: only the core's move sets FAULT, by raising a cause with the pending word. -/
theorem firstFaultRecordsItsCommand : Obligations.FirstFaultRecordsItsCommand := by
  intro s t hs h ht
  obtain hc | ⟨a, es, -, ha⟩ | ⟨es, -, rfl⟩ := step_next_popped_cases h
  · obtain ⟨w, c, hp, hcause, rfl⟩ := coreStep_raises hc hs ht
    exact ⟨w, c, hp, hcause, raise_faultEntry s.popEvent c w⟩
  · obtain ⟨hfault, -, -⟩ := hostAccess_record ha
    cases hs.symm.trans (hfault.symm.trans ht)
  · cases ht

/-- Settles O54: PARSE alone can stop, and it stops exactly where its fetching meets an unwritten byte. -/
theorem onlyParseStops : Obligations.OnlyParseStops := by
  refine fun i s => ⟨(exec_next_or_stops i s).imp_right fun ⟨_, _, _, _, h⟩ => h, fun h => ?_, ?_⟩
  · obtain ⟨t, ht⟩ | ⟨rd, a, l, rfl, -⟩ := exec_next_or_stops i s
    · cases ht.symm.trans h
    · obtain ⟨x, hx⟩ := (exec_parse_stops_iff rd a l s).1 h
      exact ⟨rd, a, l, x, rfl, hx⟩
  · rintro ⟨rd, a, l, x, rfl, hx⟩
    exact exec_parse_of_unwritten rd hx

/-- Settles O6: the core's move with PEND empty, alone and as a step. -/
theorem idleCoreHoldsItsState : Obligations.IdleCoreHoldsItsState :=
  fun s hp => ⟨coreStep_idle s hp, fun he => (step_empty s he).trans (coreStep_idle s hp)⟩

end Sys2Proof.Machine
end

section
/-! SUPPORT. The statements about reset, issue and completion (70_reset_and_hazards.md), settled. -/

namespace Sys2Proof.Machine

/-- Settles O8: whatever next state the core's move answers, PEND is empty in it. -/
theorem coreMoveEndsTheCommand : Obligations.CoreMoveEndsTheCommand :=
  fun s _ => (coreStep_next_or_stops s).imp_left fun ⟨t, ht⟩ =>
    ⟨t, ht, (State.busy_eq_false_iff t).2 (coreStep_pend ht)⟩

/-- Settles O58: the core's move keeps OVR, the host sets it only by a write that BUSY drops, and reset clears it. -/
theorem hostDutyKeepsOvrClear : Obligations.HostDutyKeepsOvrClear := by
  intro s t hduty hovr h
  obtain hc | ⟨a, es, he, ha⟩ | ⟨es, -, rfl⟩ := step_next_popped_cases h
  · exact (coreStep_ovr hc).trans hovr
  · obtain hidle | hkept := (dutyKept_host_iff he).1 hduty
    · obtain hsame | ⟨hbusy, -⟩ := hostAccess_ovr ha
      · exact hsame.trans hovr
      · cases hidle.symm.trans hbusy
    · exact (hostAccess_ovr_of_not_dropsWhenBusy (s := s.popEvent) hkept ha).trans hovr
  · rfl

/-- Settles O5: each of the three schedules lets the core move at the named state, where the word is pending. -/
theorem stepRunsThePendingCommand : Obligations.StepRunsThePendingCommand := by
  refine fun s w i hd => ⟨fun hp he => ?_, fun es hp he => ?_, ?_⟩
  · exact (step_empty s he).trans (coreStep_command s w i hp hd)
  · rw [step_core s es he, popEvent_of_events_cons he]
    exact coreStep_command { s with events := es } w i hp hd
  · rw [withFetchWord_toNat, step_core _ s.events rfl, popEvent_withPending]
    exact coreStep_command { s with pend := some w } w i rfl hd

/-- Settles O51: the state after reset is idle and not halted, so it accepts the CMD write. -/
theorem resetLeavesTheBlockIdle : Obligations.ResetLeavesTheBlockIdle := by
  refine ⟨fun s es he => ⟨_, step_reset s es he, statusWord_afterReset _, rfl, rfl, rfl, ?_, fun data => ?_⟩,
    statusWord_afterReset State.reset, rfl, rfl⟩
  · rw [State.afterReset_events, State.popEvent_events, he, List.tail_cons]
  · rw [hostAccess_write_cmd, issue_of_idle _ rfl rfl]

end Sys2Proof.Machine
end
